-- ==== Sys2Proof/Word.lean ====
section
/-! DEFINITION. The words, tokens and codes the block exchanges with the outside: bytes and bits, the opaque
`Block` and handle values, the status codes (R97), the error kinds (R98), the Actuator's answers (R141, R151, R262)
and the response record (R96). -/

namespace Sys2Proof

/-- A payload byte, 0 to 255 (R12). -/
abbrev Byte := BitVec 8

/-- One bit of a BitSequence; it is also one `SYM1` word (R61, R90, R91). -/
abbrev Bit := BitVec 1

/-- The value one ring slot holds, opaque to the ring (R10, R62). A token stands for each value: DESIGN CHOICE, log 9. -/
structure Block where
  token : Nat
  deriving DecidableEq, Repr

/-- The handle `initialize()` returns, opaque (R27). A token stands for each value: DESIGN CHOICE, log 10. -/
structure Handle where
  token : Nat
  deriving DecidableEq, Repr, Inhabited

/-- The command ports, one owning role each (R50, R270). The outputs `ACT` and `TXEV` take no command; `RST_TX` and
`RST_RX` are not command ports. -/
inductive Port where
  /-- TX host -/
  | txh
  /-- cancellation source -/
  | can
  /-- RX host -/
  | rxh
  /-- producer -/
  | prd
  /-- consumer -/
  | cns
  deriving DecidableEq, Repr

/-- Status codes of a response (R97). Codes 7 to 15 are reserved and never returned (log 25). -/
inductive Status where
  | ok
  | wait
  | busy
  | state
  | param
  | illegal
  | deverr
  deriving DecidableEq, Repr

/-- Error kinds (R98). Codes 10 to 15 are reserved and never produced (log 25). -/
inductive ErrKind where
  | none
  | notFound
  | alreadyInitialized
  | accessDenied
  | timeout
  | canceled
  | notSupported
  | otherDeviceError
  /-- of the producer agent's `configure()`; the block never produces it -/
  | configError
  /-- of the producer agent's `read_block()`; the block never produces it -/
  | readError
  deriving DecidableEq, Repr

/-- The kinds with which `initialize()` fails, all fatal (R98, R141, R242). -/
inductive InitError where
  | notFound
  | alreadyInitialized
  | accessDenied
  deriving DecidableEq, Repr

/-- The kinds with which `pulse()` fails, all transient (R98, R151, R242). -/
inductive PulseError where
  | timeout
  | canceled
  | notSupported
  /-- every kind the source leaves unnamed (U2) -/
  | otherDeviceError
  deriving DecidableEq, Repr

/-- The Actuator's answer to `initialize()`: the set the draw of R141 is from. -/
inductive InitAnswer where
  | ok (h : Handle)
  | err (k : InitError)
  deriving DecidableEq, Repr, Inhabited

/-- The Actuator's answer to `pulse(handle, timeout)`: the set the draw of R151 is from. -/
inductive PulseAnswer where
  | ok
  | err (k : PulseError)
  deriving DecidableEq, Repr, Inhabited

/-- The value `v` of a response (R96). -/
inductive RespValue where
  /-- no value -/
  | none
  /-- of `ENCODE` -/
  | bits (s : List Bit)
  /-- of `RB_READ` -/
  | block (d : Block)
  /-- of `RB_GET_DONE` -/
  | flag (f : Bool)
  deriving DecidableEq, Repr

/-- The response record `(st, ek, v)` (R96). -/
structure Response where
  st : Status
  ek : ErrKind
  v  : RespValue
  deriving DecidableEq, Repr

end Sys2Proof
end

