-- ==== Sys2Proof/Syntax.lean ====
section
/-! DEFINITION. The operations of the block: one constructor per row of the operation table (R99), their operand
records (R93), and the words that carry them (R90, R91, R92). -/

namespace Sys2Proof

/-- The operations of the block (R6, R99). Operands are typed values, arguments of the constructor (R93). -/
inductive Instr where
  /-- `SYM1` 0 (R152) -/
  | gap
  /-- `SYM1` 1 (R151) -/
  | pulse
  /-- `ENCODE payload` (R121) -/
  | encode (payload : List Byte)
  /-- `ACT_INIT` (R141) -/
  | actInit
  /-- `TRANSMIT T, G` (R143) -/
  | transmit (pulseTimeout gapDuration : Nat)
  /-- `CANCEL` (R155) -/
  | cancel
  /-- `ACT_SHUTDOWN` (R157) -/
  | actShutdown
  /-- `RB_INIT K` (R181) -/
  | rbInit (k : Nat)
  /-- `RB_WRITE d` (R183) -/
  | rbWrite (d : Block)
  /-- `RB_READ` (R185) -/
  | rbRead
  /-- `RB_SET_DONE` (R187) -/
  | rbSetDone
  /-- `RB_GET_DONE` (R188) -/
  | rbGetDone
  /-- `RB_FREE` (R189) -/
  | rbFree
  deriving DecidableEq, Repr

/-- What travels beside a `CMD4` code (R90, R93): a lane per operand of R93. An operation takes the lanes R93 gives
it and ignores the others: DESIGN CHOICE, log 6. -/
structure Operands where
  /-- of `ENCODE` -/
  payload : List Byte
  /-- `T` of `TRANSMIT`, in `TICK`s -/
  pulseTimeout : Nat
  /-- `G` of `TRANSMIT`, in `TICK`s -/
  gapDuration : Nat
  /-- `K` of `RB_INIT` -/
  k : Nat
  /-- `d` of `RB_WRITE` -/
  d : Block
  deriving DecidableEq, Repr

/-- Every lane empty or zero. -/
def Operands.zero : Operands :=
  { payload := [], pulseTimeout := 0, gapDuration := 0, k := 0, d := ⟨0⟩ }

/-- An operation as it reaches the block (R90): a symbol fetched from `BITS`, or a code issued on a command port with
the operands beside it. -/
inductive OpWord where
  | sym1 (b : Bit)
  | cmd4 (port : Port) (op : BitVec 4) (args : Operands)
  deriving DecidableEq, Repr

end Sys2Proof
end

