-- ==== Sys2Proof/Decode.lean ====
section
/-! DEFINITION. The decoder of the two formats (R90 to R92, R99, R100), total, rejecting by name, and after it the
encoder; and the host's view of one table word. -/

namespace Sys2Proof

/-- Why a word is no operation. Both are answered `refuse(ST_ILLEGAL)` by the block (R100). -/
inductive Reject where
  /-- a reserved `CMD4` code: 0000, 0110, 0111, 1110, 1111 (R100) -/
  | reservedCode
  /-- a defined code on a port that does not own the operation (R100, R270) -/
  | wrongPort
  deriving DecidableEq, Repr

/-- What a word decodes to. -/
inductive Decoded where
  | ok (i : Instr)
  | rejected (r : Reject)
  deriving DecidableEq, Repr

/-- The operation of a `SYM1` word; the space is full (R91, R101). -/
def decodeSym1 (b : Bit) : Instr := if b = 1 then .pulse else .gap

/-- The operation a `CMD4` code selects and the port that owns it (R99); `none` for a reserved code (R100). -/
def decodeCode (op : BitVec 4) (a : Operands) : Option (Port × Instr) :=
  match op with
  | 0b0001#4 => some (.txh, .encode a.payload)
  | 0b0010#4 => some (.txh, .actInit)
  | 0b0011#4 => some (.txh, .transmit a.pulseTimeout a.gapDuration)
  | 0b0100#4 => some (.can, .cancel)
  | 0b0101#4 => some (.txh, .actShutdown)
  | 0b1000#4 => some (.rxh, .rbInit a.k)
  | 0b1001#4 => some (.prd, .rbWrite a.d)
  | 0b1010#4 => some (.cns, .rbRead)
  | 0b1011#4 => some (.prd, .rbSetDone)
  | 0b1100#4 => some (.cns, .rbGetDone)
  | 0b1101#4 => some (.rxh, .rbFree)
  | _ => none

/-- The operation of a command word: the code check, then the port check (R100, R252(f)). -/
def decodeCmd4 (p : Port) (op : BitVec 4) (a : Operands) : Decoded :=
  match decodeCode op a with
  | none => .rejected .reservedCode
  | some (owner, i) => if p = owner then .ok i else .rejected .wrongPort

/-- The decoder, total on both formats. -/
def decode : OpWord → Decoded
  | .sym1 b => .ok (decodeSym1 b)
  | .cmd4 p op a => decodeCmd4 p op a

/-- The port that owns an operation; a symbol is internal and has none (R50, R99). -/
def Instr.port : Instr → Option Port
  | .gap => none
  | .pulse => none
  | .encode _ => some .txh
  | .actInit => some .txh
  | .transmit _ _ => some .txh
  | .cancel => some .can
  | .actShutdown => some .txh
  | .rbInit _ => some .rxh
  | .rbWrite _ => some .prd
  | .rbRead => some .cns
  | .rbSetDone => some .prd
  | .rbGetDone => some .cns
  | .rbFree => some .rxh

/-- The encoder: the word of an operation, on the port that owns it, unused operand lanes zero (R91, R93, R99). -/
def encode : Instr → OpWord
  | .gap => .sym1 0
  | .pulse => .sym1 1
  | .encode payload => .cmd4 .txh 0b0001 { Operands.zero with payload := payload }
  | .actInit => .cmd4 .txh 0b0010 Operands.zero
  | .transmit t g => .cmd4 .txh 0b0011 { Operands.zero with pulseTimeout := t, gapDuration := g }
  | .cancel => .cmd4 .can 0b0100 Operands.zero
  | .actShutdown => .cmd4 .txh 0b0101 Operands.zero
  | .rbInit k => .cmd4 .rxh 0b1000 { Operands.zero with k := k }
  | .rbWrite d => .cmd4 .prd 0b1001 { Operands.zero with d := d }
  | .rbRead => .cmd4 .cns 0b1010 Operands.zero
  | .rbSetDone => .cmd4 .prd 0b1011 Operands.zero
  | .rbGetDone => .cmd4 .cns 0b1100 Operands.zero
  | .rbFree => .cmd4 .rxh 0b1101 Operands.zero

/-- Where a table word stands when only its number is given: `SYM1` if the row is one bit long or the word is 0 or 1,
else `CMD4` in the low four bits. A word of 0 or 1 in a whole byte belongs to both formats: DESIGN CHOICE, log 7. -/
def tableWordIsSym1 (nbits w : Nat) : Bool := nbits < 2 || (7 < nbits && w < 2)

/-- The port a code is issued on when only the code is given: the owner of the operation, and for a reserved code the
host port of the side that bit 3 names (R92, R100). -/
def portOfCode (op : BitVec 4) : Port :=
  match decodeCode op Operands.zero with
  | some (owner, _) => owner
  | none => if op.getLsbD 3 then .rxh else .txh

/-- The word a number stands for, its operands zero. -/
def tableWord (nbits w : Nat) : OpWord :=
  if tableWordIsSym1 nbits w then .sym1 (BitVec.ofNat 1 w)
  else .cmd4 (portOfCode (BitVec.ofNat 4 w)) (BitVec.ofNat 4 w) Operands.zero

/-- The operation the decoder reads from a table word; `none` where it rejects. -/
def decodeTableWord (nbits w : Nat) : Option Instr :=
  match decode (tableWord nbits w) with
  | .ok i => some i
  | .rejected _ => none

end Sys2Proof
end

