-- ==== Sys2Proof/Config.lean ====
section
/-! DEFINITION. The parameters of the block (R10, R11) and the free values of the model: what the spec leaves to the
Actuator or gives no definition. -/

namespace Sys2Proof

/-- The parameters `ENCODE` reads (R10, R11). -/
structure Params where
  /-- `PREAMBLE`, the element of index 0 first -/
  preamble : List Bit
  /-- `PAYLOAD_MAX`; `none` is unbounded -/
  payloadMax : Option Nat
  deriving DecidableEq, Repr

/-- `PL`, the length of `PREAMBLE` (R10). -/
def Params.pl (P : Params) : Nat := P.preamble.length

namespace Config

/-- `PREAMBLE = 1111100110101`, leftmost bit first (R10, R13; decisions D1 and D2 of the spec, log 11). -/
def preamble : List Bit := [1, 1, 1, 1, 1, 0, 0, 1, 1, 0, 1, 0, 1]

/-- The values R10 gives this hardware: the decided preamble, no bound on the payload (D17, log 12). -/
def params : Params := { preamble := preamble, payloadMax := none }

/-- `K_DEFAULT`, the `K` a host passes when its configuration gives none (R10, R181). -/
def kDefault : Nat := 1000

/-- Free value: the Actuator's answer to `initialize()` at the n-th draw (R141, R142, U14). Nothing is known of it
but its type, which is the set of R141. Log 3. -/
opaque freeInit : Nat → InitAnswer

/-- Free value: the Actuator's answer to `pulse()` at the n-th draw (R142, R151, U14). Log 3. -/
opaque freePulse : Nat → PulseAnswer

/-- The premise `GapCalibrated(G, T, Actuator)` of R153: a name without a definition, for claims to assume. The block
never reads it (R296). Log 26. -/
opaque gapCalibrated : (gap pulseTimeout : Nat) → Bool

end Config

end Sys2Proof
end

