-- ==== Sys2Proof/Machine/State.lean ====
section
/-! DEFINITION. The state elements S0 to S24 (R21) as plain data, the model's own fields that stand for the outside
of the block, the reasons a step can stop, and the state after reset (R51, R281). -/

namespace Sys2Proof.Machine

/-- `ACT_STATE` (S5, R26). -/
inductive ActState where
  | closed
  | opened
  deriving DecidableEq, Repr

/-- `TX_STATE` (S7, R28). -/
inductive TxMode where
  | idle
  | run
  deriving DecidableEq, Repr

/-- `TX_STATUS` (S8, R29). -/
inductive TxStatus where
  | none
  | done
  | cancelled
  | aborted
  deriving DecidableEq, Repr

/-- `RB_STATE` (S17, R38). -/
inductive RbState where
  | unbuilt
  | built
  deriving DecidableEq, Repr

/-- An event of `TXEV`, with the four constructors of R105 (R41). -/
inductive Event where
  /-- `EvInit(r)`: a call of `initialize()` and its result -/
  | init (r : InitAnswer)
  /-- `EvPulse(t, T, r)`: a call of `pulse` at scheduled time `t` with timeout `T` and its result -/
  | pulse (time timeout : Nat) (r : PulseAnswer)
  /-- `EvGap(t, G)`: an idle interval of `G` from scheduled time `t` -/
  | gap (time duration : Nat)
  /-- `EvShutdown`: a call of `shutdown` -/
  | shutdown
  deriving DecidableEq, Repr

/-- One cell of the space `SLOT`: the pair (`SLOT_FILLED[i]`, `SLOT_DATA[i]`) (R40, R62). -/
structure Slot (β : Type) where
  /-- S19 -/
  filled : Bool
  /-- S20 -/
  data   : Option β
  deriving DecidableEq, Repr

/-- An EMPTY slot (R40). -/
def Slot.empty {β : Type} : Slot β := ⟨false, none⟩

/-- A slot FILLED with `d` (R40). -/
def Slot.full {β : Type} (d : β) : Slot β := ⟨true, some d⟩

/-- The TX state elements S0 to S16 (R21). -/
structure TxState where
  /-- S0 `PAY` (R23) -/
  pay : List Byte
  /-- S1 `PAYLEN` (R23) -/
  paylen : Nat
  /-- S2 `BITS` (R24) -/
  bits : List Bit
  /-- S3 `NBITS` (R24) -/
  nbits : Nat
  /-- S4 `BITS_VALID` (R25) -/
  bitsValid : Bool
  /-- S5 `ACT_STATE` (R26) -/
  actState : ActState
  /-- S6 `ACT_HANDLE` (R27) -/
  actHandle : Option Handle
  /-- S7 `TX_STATE` (R28) -/
  txState : TxMode
  /-- S8 `TX_STATUS` (R29) -/
  txStatus : TxStatus
  /-- S9 `TX_T` (R30) -/
  txT : Nat
  /-- S10 `TX_G` (R30) -/
  txG : Nat
  /-- S11 `BIT_IDX`, the program counter (R31, R32) -/
  bitIdx : Nat
  /-- S12 `TX_TIME` (R33) -/
  txTime : Nat
  /-- S13 `FAILCNT` (R34) -/
  failCnt : Nat
  /-- S14 `LASTERR` (R35) -/
  lastErr : ErrKind
  /-- S15 `FATAL_ERR` (R36) -/
  fatalErr : ErrKind
  /-- S16 `TXEV`, oldest event first (R41) -/
  txEv : List Event
  deriving DecidableEq, Repr

/-- The RX state elements S17 to S24 (R21), for any type `β` of the parameter `Block` (R10). -/
structure RxStateOf (β : Type) where
  /-- S17 `RB_STATE` (R38) -/
  rbState : RbState
  /-- S18 `RB_K` (R39) -/
  rbK : Nat
  /-- S19 and S20, one cell per slot (R40, R62) -/
  slots : List (Slot β)
  /-- S21 `RB_WR` (R42) -/
  rbWr : Nat
  /-- S22 `RB_RD` (R43) -/
  rbRd : Nat
  /-- S23 `RB_DONE` (R45) -/
  rbDone : Bool
  /-- S24 `RB_WSEQ`, ghost (R46) -/
  rbWseq : List β
  /-- S24 `RB_RSEQ`, ghost (R46) -/
  rbRseq : List β
  deriving DecidableEq, Repr

/-- The RX elements of the machine: the instance at the tokens of `Block` (log 9). -/
abbrev RxState := RxStateOf Block

/-- A call the block makes on port `ACT` (R50, R262), with the handle it passes back (R27). -/
inductive ActCall where
  | opening
  | pulse (h : Option Handle) (timeout : Nat)
  | shutdown (h : Option Handle)
  deriving DecidableEq, Repr

/-- One transition of the interleaving (R74): a command issued on a port, the scheduler's turn, or a reset input. -/
inductive Turn where
  | cmd (port : Port) (op : BitVec 4) (args : Operands)
  | sched
  | rstTx
  | rstRx
  deriving DecidableEq, Repr

/-- The MODEL's own fields: what stands at the ports of the block. None is a state element of R21 (log 1 to 4). -/
structure Env where
  /-- the transitions still to be taken, next one first (R74; log 1) -/
  turns : List Turn
  /-- answers to `initialize()` the Actuator has ready, next one first (R142; log 3) -/
  initAnswers : List InitAnswer
  /-- answers to `pulse()` the Actuator has ready, next one first (R142; log 3) -/
  pulseAnswers : List PulseAnswer
  /-- how many draws have been made; the free values are read at it (log 3) -/
  draws : Nat
  /-- the calls made on port `ACT`, oldest first (log 4) -/
  actCalls : List ActCall
  /-- the responses answered and their ports, oldest first (R96; log 2) -/
  responses : List (Port × Response)
  deriving DecidableEq, Repr

/-- The machine: the two paths, which share nothing (R18), and what stands at the ports. -/
structure State where
  /-- S0 to S16 -/
  tx  : TxState
  /-- S17 to S24 -/
  rx  : RxState
  /-- the model's own fields -/
  env : Env
  deriving DecidableEq, Repr

/-- Why a step stops. The spec has no bounds fault (R68): each of these names a state that breaks R52 or R53, which no
run reaches. All are safe (log 14). -/
inductive Fault where
  /-- raised by the scheduler's fetch when `BIT_IDX` is no index of `BITS` (R52(d) broken); safe -/
  | fetchOutOfRange
  /-- raised by `RB_WRITE` and `RB_READ` when the cursor is no index of `SLOT` (R53(b), R53(c) broken); safe -/
  | slotOutOfRange
  /-- raised by `RB_READ` when the slot is FILLED and holds no Block (R53(d) broken); safe -/
  | slotDataMissing
  deriving DecidableEq, Repr

/-- Why the model has no meaning for an instruction. No arm of `exec` answers with it. -/
inductive Refusal where
  /-- raised by an arm of `exec` for an instruction without a meaning; safe -/
  | notModelled (mnemonic : String)
  deriving DecidableEq, Repr

/-- The TX elements after reset (R21, R51, R281). -/
def TxState.reset : TxState where
  pay := []
  paylen := 0
  bits := []
  nbits := 0
  bitsValid := false
  actState := .closed
  actHandle := none
  txState := .idle
  txStatus := .none
  txT := 0
  txG := 0
  bitIdx := 0
  txTime := 0
  failCnt := 0
  lastErr := .none
  fatalErr := .none
  txEv := []

/-- The RX elements after reset: no ring (R21, R51, R281). -/
def RxStateOf.reset {β : Type} : RxStateOf β where
  rbState := .unbuilt
  rbK := 0
  slots := []
  rbWr := 0
  rbRd := 0
  rbDone := false
  rbWseq := []
  rbRseq := []

/-- The RX elements of the machine after reset. -/
abbrev RxState.reset : RxState := RxStateOf.reset

/-- Nothing queued, answered or called: DESIGN CHOICE, log 29. -/
def Env.reset : Env where
  turns := []
  initAnswers := []
  pulseAnswers := []
  draws := 0
  actCalls := []
  responses := []

/-- The machine after power-on, which applies both resets (R280, R281). -/
def State.reset : State where
  tx := TxState.reset
  rx := RxState.reset
  env := Env.reset

end Sys2Proof.Machine
end

