-- ==== Sys2Proof/Machine/Operands.lean ====
section
/-! DEFINITION. Every operand form (R93): the assembly of a payload into bits (R16, R94, R122), its reference inverse
(R126), the bit view of the byte space (R66), the range checks (R121, R181), and the counts of bits (R235, R236). -/

namespace Sys2Proof.Machine

/-- `v[k] = (v div 2^k) mod 2` (R12). -/
def bitOf (v : Byte) (k : Nat) : Bit := BitVec.ofNat 1 (v.toNat / 2 ^ k % 2)

/-- `bits8(v)`: bit 7 first (R16, R65). -/
def bits8 (v : Byte) : List Bit :=
  [bitOf v 7, bitOf v 6, bitOf v 5, bitOf v 4, bitOf v 3, bitOf v 2, bitOf v 1, bitOf v 0]

/-- `byte8(b)`: the sum of `b[j] * 2^(7 - j)` for `j` in 0 to 7 (R16, R233). -/
def byte8 (b : List Bit) : Byte :=
  BitVec.ofNat 8 ((List.range 8).map fun j => (b.getD j 0).toNat * 2 ^ (7 - j)).sum

/-- `encode(P)` of R122: the preamble, then the bits of each byte in payload order. -/
def encodePayload (preamble : List Bit) (payload : List Byte) : List Bit :=
  preamble ++ payload.flatMap bits8

/-- `decode(s)` of R126: `pl` bits are stripped unchecked; `none` off its domain (U11). -/
def decodePayload (pl : Nat) (s : List Bit) : Option (List Byte) :=
  if s.length < pl ∨ (s.length - pl) % 8 ≠ 0 then none
  else some ((List.range ((s.length - pl) / 8)).map fun j => byte8 ((s.drop (pl + 8 * j)).take 8))

/-- `bit_at(i)` of R66, from the preamble and the payload alone; `none` past the last bit. -/
def bitAt (preamble : List Bit) (payload : List Byte) (i : Nat) : Option Bit :=
  if i < preamble.length then preamble[i]?
  else (payload[(i - preamble.length) / 8]?).map fun v => bitOf v (7 - (i - preamble.length) % 8)

/-- `len(payload) > PAYLOAD_MAX` (R121); never with an unbounded `PAYLOAD_MAX` (R10). -/
def payloadTooLong (P : Params) (payload : List Byte) : Bool :=
  match P.payloadMax with
  | none => false
  | some m => m < payload.length

/-- `K < 2` (R181). -/
def nodeCountTooSmall (k : Nat) : Bool := k < 2

/-- The number of 1-bits of a bit sequence (R52(e), R235). -/
def ones (s : List Bit) : Nat := s.count 1

/-- The number of 0-bits of a bit sequence (R52(e), R235). -/
def zeros (s : List Bit) : Nat := s.count 0

end Sys2Proof.Machine
end

