-- ==== Sys2Proof/Machine/Flags.lean ====
section
/-! DEFINITION. What is computed from the flags (R37): the markers of the ring, its occupancy, full and empty (R49,
R184, R186), the status outputs of port `TXH` (R50), and the numbers of statuses and error kinds (R97, R98). There are no
arithmetic condition codes (R37). -/

namespace Sys2Proof

/-- `st[3:0]`, the number R97 gives a status. -/
def Status.code : Status → BitVec 4
  | .ok => 0
  | .wait => 1
  | .busy => 2
  | .state => 3
  | .param => 4
  | .illegal => 5
  | .deverr => 6

/-- `ek[3:0]`, the number R98 gives an error kind. -/
def ErrKind.code : ErrKind → BitVec 4
  | .none => 0
  | .notFound => 1
  | .alreadyInitialized => 2
  | .accessDenied => 3
  | .timeout => 4
  | .canceled => 5
  | .notSupported => 6
  | .otherDeviceError => 7
  | .configError => 8
  | .readError => 9

/-- `ek(k)` of a fatal kind (R98, R141). -/
def InitError.kind : InitError → ErrKind
  | .notFound => .notFound
  | .alreadyInitialized => .alreadyInitialized
  | .accessDenied => .accessDenied

/-- `ek(k)` of a transient kind (R98, R151). -/
def PulseError.kind : PulseError → ErrKind
  | .timeout => .timeout
  | .canceled => .canceled
  | .notSupported => .notSupported
  | .otherDeviceError => .otherDeviceError

/-- `(st, 0)`: a response without error kind and value (R15). -/
def Response.plain (st : Status) : Response := ⟨st, .none, .none⟩

namespace Machine

/-- `occ`, the number of slots with `SLOT_FILLED = 1` (R49). -/
def occ {β : Type} (rx : RxStateOf β) : Nat := rx.slots.countP (·.filled)

/-- The marker `SLOT_FILLED[i]`; `none` where there is no slot `i` (R40). -/
def markerAt {β : Type} (rx : RxStateOf β) (i : Nat) : Option Bool := (rx.slots[i]?).map (·.filled)

/-- The ring is full: `occ = RB_K` (R184). -/
def ringFull {β : Type} (rx : RxStateOf β) : Bool := occ rx == rx.rbK

/-- The ring is empty: `occ = 0` (R186). -/
def ringEmpty {β : Type} (rx : RxStateOf β) : Bool := occ rx == 0

/-- The status outputs of `TXH` (R50). -/
structure StatusOutputs where
  txState   : TxMode
  txStatus  : TxStatus
  bitIdx    : Nat
  txTime    : Nat
  failCnt   : Nat
  lastErr   : ErrKind
  fatalErr  : ErrKind
  actState  : ActState
  bitsValid : Bool
  nbits     : Nat
  deriving DecidableEq, Repr

/-- Reading the status outputs: a function of the state, so it has no side effect (R50). -/
def statusOutputs (s : State) : StatusOutputs where
  txState := s.tx.txState
  txStatus := s.tx.txStatus
  bitIdx := s.tx.bitIdx
  txTime := s.tx.txTime
  failCnt := s.tx.failCnt
  lastErr := s.tx.lastErr
  fatalErr := s.tx.fatalErr
  actState := s.tx.actState
  bitsValid := s.tx.bitsValid
  nbits := s.tx.nbits

end Machine

end Sys2Proof
end

