-- ==== Sys2Proof/Machine/Ops.lean ====
section
/-! DEFINITION. The named operations the meanings share: the primitives of R15 (read and write of the index spaces,
`emit`, `return`, `refuse`, `draw`, the Actuator's calls), taking an exception (R244, R246), the end of a run (R150,
R155), the steps of the cursors (R234), and the two resets (R280). -/

namespace Sys2Proof.Machine

/-! ### Parts of the state -/

/-- `s` with other TX elements. -/
def State.withTx (s : State) (tx : TxState) : State := { s with tx := tx }

/-- `s` with other RX elements. -/
def State.withRx (s : State) (rx : RxState) : State := { s with rx := rx }

/-- `s` with other fields at the ports. -/
def State.withEnv (s : State) (env : Env) : State := { s with env := env }

/-- `s` with the turns `ts` still to be taken (log 1). -/
def State.withTurns (s : State) (ts : List Turn) : State := s.withEnv { s.env with turns := ts }

/-! ### Responses (R15, R96) -/

/-- `return r` on port `p`: the response goes to the port (log 2). -/
def State.respond (s : State) (p : Port) (r : Response) : State :=
  s.withEnv { s.env with responses := s.env.responses ++ [(p, r)] }

/-- `return r` with the state `s` the operation leaves. -/
def answer (p : Port) (r : Response) (s : State) : Host.Outcome State Fault Refusal := .next (s.respond p r)

/-- `refuse(st)`: no state element written, no event, no call (R15, R243). `ST_WAIT` answers in the same form (R71). -/
def refuse (p : Port) (st : Status) (s : State) : Host.Outcome State Fault Refusal := answer p (.plain st) s

/-! ### Events and calls of the Actuator (R41, R142, R262) -/

/-- `emit ev` (R15, R41). -/
def TxState.emit (tx : TxState) (ev : Event) : TxState := { tx with txEv := tx.txEv ++ [ev] }

/-- A call on port `ACT` (R50; log 4). -/
def Env.call (e : Env) (c : ActCall) : Env := { e with actCalls := e.actCalls ++ [c] }

/-- The Actuator's next answer to `initialize()` (R142): the one it has ready, else a free value (log 3). -/
def Env.nextInit (e : Env) : InitAnswer :=
  match e.initAnswers with
  | [] => Config.freeInit e.draws
  | r :: _ => r

/-- The Actuator's next answer to `pulse()` (R142): the one it has ready, else a free value (log 3). -/
def Env.nextPulse (e : Env) : PulseAnswer :=
  match e.pulseAnswers with
  | [] => Config.freePulse e.draws
  | r :: _ => r

/-- `initialize()`: the call is made and the answer drawn (R141, R142). -/
def Env.callInit (e : Env) : Env :=
  { e.call .opening with initAnswers := e.initAnswers.tail, draws := e.draws + 1 }

/-- `pulse(h, timeout)`: the call is made and the answer drawn (R142, R151). -/
def Env.callPulse (e : Env) (h : Option Handle) (timeout : Nat) : Env :=
  { e.call (.pulse h timeout) with pulseAnswers := e.pulseAnswers.tail, draws := e.draws + 1 }

/-- `shutdown(ACT_HANDLE)`, its event, and the Actuator `CLOSED`: it always completes (R142, R155, R157). -/
def State.shutdownActuator (s : State) : State :=
  { s with
    tx := { s.tx.emit .shutdown with actState := .closed, actHandle := none }
    env := s.env.call (.shutdown s.tx.actHandle) }

/-! ### Taking an exception (R240 to R248) -/

/-- The exceptions of the block (R242): nothing else raises one. -/
inductive Exc where
  /-- a fatal initialisation error, in `ACT_INIT` -/
  | fatal (k : InitError)
  /-- a transient pulse error, in `PULSE` -/
  | transient (k : PulseError)
  deriving DecidableEq, Repr

/-- `raise`: what an exception records. Fatal (R244): `FATAL_ERR` and `TX_STATUS = ABORTED`; `ACT_STATE` and
`ACT_HANDLE` stay. Transient (R246): `FAILCNT + 1` and `LASTERR`. Nothing is saved and no handler runs, so there is no
return (R254). -/
def takeException (x : Exc) (tx : TxState) : TxState :=
  match x with
  | .fatal k => { tx with fatalErr := k.kind, txStatus := .aborted }
  | .transient k => { tx with failCnt := tx.failCnt + 1, lastErr := k.kind }

/-! ### The run (R150, R155) -/

/-- The end of a run: `IDLE`, the status, and the BitSequence discarded (R25, R150, R155). -/
def TxState.endRun (tx : TxState) (st : TxStatus) : TxState :=
  { tx with txState := .idle, txStatus := st, bitsValid := false }

/-- The fetch of a `STEP`: the `SYM1` word at the program counter (R61, R150); `none` past the end of `BITS`. -/
def fetchBit (tx : TxState) : Option Bit := tx.bits[tx.bitIdx]?

/-- What a `STEP` does after the symbol at index `i`: the next index, and the end of the run after the last bit
(R150). -/
def advanceBit (i : Nat) (tx : TxState) : TxState :=
  if i + 1 = tx.nbits then TxState.endRun { tx with bitIdx := i + 1 } .done else { tx with bitIdx := i + 1 }

/-! ### The ring (R40 to R43, R234), for any type of Blocks (R10, R62) -/

/-- The next node in the cycle (R40, R234). -/
def nextSlot {β : Type} (rx : RxStateOf β) (c : Nat) : Nat := (c + 1) % rx.rbK

/-- The cell `SLOT[i]` (R62); `none` where there is no slot `i`. -/
def slotRead {β : Type} (rx : RxStateOf β) (i : Nat) : Option (Slot β) := rx.slots[i]?

/-- Write of the whole cell `SLOT[i]` (R62). -/
def slotWrite {β : Type} (rx : RxStateOf β) (i : Nat) (c : Slot β) : RxStateOf β :=
  { rx with slots := rx.slots.set i c }

/-- A new ring of `k` EMPTY slots, cursors at 0, flag 0 (R181). -/
def buildRing {β : Type} (k : Nat) : RxStateOf β where
  rbState := .built
  rbK := k
  slots := List.replicate k Slot.empty
  rbWr := 0
  rbRd := 0
  rbDone := false
  rbWseq := []
  rbRseq := []

/-- A successful write of `d` (R183): the cell at `RB_WR`, the cursor, the ghost. -/
def fillSlot {β : Type} (d : β) (rx : RxStateOf β) : RxStateOf β :=
  { slotWrite rx rx.rbWr (.full d) with rbWr := nextSlot rx rx.rbWr, rbWseq := rx.rbWseq ++ [d] }

/-- A successful read of `d` (R185): the cell at `RB_RD` cleared, the cursor, the ghost. -/
def drainSlot {β : Type} (d : β) (rx : RxStateOf β) : RxStateOf β :=
  { slotWrite rx rx.rbRd .empty with rbRd := nextSlot rx rx.rbRd, rbRseq := rx.rbRseq ++ [d] }

/-! ### Reset (R280 to R283) -/

/-- `RST_TX`: every TX element to its reset value; no call of the Actuator; the RX path untouched (R280, R282). -/
def rstTx (s : State) : State := s.withTx TxState.reset

/-- `RST_RX`: every RX element to its reset value; the TX path untouched (R280, R283). -/
def rstRx (s : State) : State := s.withRx RxState.reset

/-- Power-on applies both (R280). -/
def powerOn (s : State) : State := rstRx (rstTx s)

/-! ### Canonical form of the index spaces (R52(a), R60 to R62) -/

/-- The lengths the block states agree with its index spaces: `PAYLEN`, `NBITS` and `RB_K` (log 5). -/
abbrev Memory.wf (s : State) : Prop :=
  s.tx.paylen = s.tx.pay.length ∧ s.tx.nbits = s.tx.bits.length ∧ s.rx.rbK = s.rx.slots.length

end Sys2Proof.Machine
end

