-- ==== Sys2Proof/Machine/BitEncoder.lean ====
section
/-! DEFINITION. The bit-encoder sub-block: `ENCODE` (R120 to R128). -/

namespace Sys2Proof.Machine

/-- The stores of an accepted `ENCODE` (R121). -/
def storePayload (P : Params) (payload : List Byte) (tx : TxState) : TxState :=
  { tx with
    pay := payload
    paylen := payload.length
    bits := encodePayload P.preamble payload
    nbits := P.pl + 8 * payload.length
    bitsValid := true }

/-- `ENCODE payload` for the parameters `P` (R121). -/
def execEncodeWith (P : Params) (payload : List Byte) (s : State) : Host.Outcome State Fault Refusal :=
  if s.tx.txState = .run then refuse .txh .busy s
  else if payloadTooLong P payload = true then refuse .txh .param s
  else answer .txh ⟨.ok, .none, .bits (encodePayload P.preamble payload)⟩ (s.withTx (storePayload P payload s.tx))

/-- `ENCODE payload` on this hardware (R10, R121). -/
def execEncode (payload : List Byte) (s : State) : Host.Outcome State Fault Refusal :=
  execEncodeWith Config.params payload s

end Sys2Proof.Machine
end

