-- ==== Sys2Proof/Machine/PulseScheduler.lean ====
section
/-! DEFINITION. The pulse-scheduler sub-block: `ACT_INIT`, `TRANSMIT`, the symbols `PULSE` and `GAP`, `CANCEL`,
`ACT_SHUTDOWN` (R140 to R160). The fetch and the advance of a `STEP` stand around the symbols (R150; log 19). -/

namespace Sys2Proof.Machine

/-- What an answer of `initialize()` does to the TX elements (R141). -/
def applyInit (r : InitAnswer) (tx : TxState) : TxState :=
  match r with
  | .ok h =>
    { tx.emit (.init r) with actState := .opened, actHandle := some h, fatalErr := .none, txStatus := .none }
  | .err k => takeException (.fatal k) (tx.emit (.init r))

/-- The response to an answer of `initialize()` (R141). -/
def initResponse (r : InitAnswer) : Response :=
  match r with
  | .ok _ => .plain .ok
  | .err k => ⟨.deverr, k.kind, .none⟩

/-- `ACT_INIT` (R141). -/
def execActInit (s : State) : Host.Outcome State Fault Refusal :=
  if s.tx.txState = .run then refuse .txh .busy s
  else if s.tx.actState = .opened then
    answer .txh ⟨.deverr, .alreadyInitialized, .none⟩ (s.withTx (takeException (.fatal .alreadyInitialized) s.tx))
  else
    answer .txh (initResponse s.env.nextInit)
      { s with tx := applyInit s.env.nextInit s.tx, env := s.env.callInit }

/-- The stores of an accepted `TRANSMIT` (R143). -/
def startRun (pulseTimeout gapDuration : Nat) (tx : TxState) : TxState :=
  let latched : TxState :=
    { tx with
      txT := pulseTimeout, txG := gapDuration, bitIdx := 0, txTime := 0, failCnt := 0, lastErr := .none }
  if tx.nbits = 0 then { latched with txStatus := .done, bitsValid := false }
  else { latched with txStatus := .none, txState := .run }

/-- `TRANSMIT T, G` (R143). -/
def execTransmit (pulseTimeout gapDuration : Nat) (s : State) : Host.Outcome State Fault Refusal :=
  if s.tx.txState = .run then refuse .txh .busy s
  else if s.tx.bitsValid = false then refuse .txh .state s
  else if s.tx.actState = .closed then refuse .txh .state s
  else answer .txh (.plain .ok) (s.withTx (startRun pulseTimeout gapDuration s.tx))

/-- What an answer of `pulse()` records besides its event (R151, R246). -/
def recordPulse (r : PulseAnswer) (tx : TxState) : TxState :=
  match r with
  | .ok => tx
  | .err k => takeException (.transient k) tx

/-- What `PULSE` with the answer `r` does to the TX elements (R151): the event, the failure if any, the time. -/
def applyPulse (r : PulseAnswer) (tx : TxState) : TxState :=
  let recorded := recordPulse r (tx.emit (.pulse tx.txTime tx.txT r))
  { recorded with txTime := tx.txTime + tx.txT }

/-- `PULSE` (R151). -/
def execPulse (s : State) : Host.Outcome State Fault Refusal :=
  .next { s with tx := applyPulse s.env.nextPulse s.tx, env := s.env.callPulse s.tx.actHandle s.tx.txT }

/-- What `GAP` does to the TX elements (R152). -/
def applyGap (tx : TxState) : TxState :=
  { tx.emit (.gap tx.txTime tx.txG) with txTime := tx.txTime + tx.txG }

/-- `GAP` (R152). -/
def execGap (s : State) : Host.Outcome State Fault Refusal := .next (s.withTx (applyGap s.tx))

/-- The teardown of a `CANCEL`: an open Actuator is shut down (R155). -/
def cancelActuator (s : State) : State := if s.tx.actState = .opened then s.shutdownActuator else s

/-- The end of the run of a `CANCEL`: a running transmission ends `CANCELLED` (R155). -/
def cancelRun (tx : TxState) : TxState := if tx.txState = .run then tx.endRun .cancelled else tx

/-- `CANCEL`, the one interrupt: accepted in every state (R155, R250). -/
def execCancel (s : State) : Host.Outcome State Fault Refusal :=
  answer .can (.plain .ok) ((cancelActuator s).withTx (cancelRun (cancelActuator s).tx))

/-- `ACT_SHUTDOWN` (R157). -/
def execActShutdown (s : State) : Host.Outcome State Fault Refusal :=
  if s.tx.txState = .run then refuse .txh .busy s
  else if s.tx.actState = .closed then refuse .txh .state s
  else answer .txh (.plain .ok) s.shutdownActuator

end Sys2Proof.Machine
end

