-- ==== Sys2Proof/Machine/RingBuffer.lean ====
section
/-! DEFINITION. The ring buffer sub-block: `RB_INIT`, `RB_WRITE`, `RB_READ`, `RB_SET_DONE`, `RB_GET_DONE`, `RB_FREE`
(R180 to R204). Each rule is written once, on the RX elements alone and for any type of Blocks (the parameter `Block`
of R10); the meaning of the operation answers it on the port that owns it, in one atomic transition (R70). -/

namespace Sys2Proof.Machine

/-- The value a ring operation answers (R96, R99). -/
inductive RingValue (β : Type) where
  | none
  | block (d : β)
  | flag (f : Bool)
  deriving DecidableEq, Repr

/-- What a ring operation does: `ST_OK` with a value and the elements it leaves, a refusal or `ST_WAIT` that leaves
them as they are, or a stop (log 14). -/
inductive RingAnswer (β : Type) where
  | ok (v : RingValue β) (rx : RxStateOf β)
  | refuse (st : Status)
  | stop (f : Fault)
  deriving DecidableEq, Repr

variable {β : Type}

/-- R181. -/
def ringInit (k : Nat) (rx : RxStateOf β) : RingAnswer β :=
  if rx.rbState = .built then .refuse .state
  else if nodeCountTooSmall k = true then .refuse .param
  else .ok .none (buildRing k)

/-- R183. -/
def ringWrite (d : β) (rx : RxStateOf β) : RingAnswer β :=
  if rx.rbState = .unbuilt then .refuse .state
  else if rx.rbDone = true then .refuse .state
  else
    match slotRead rx rx.rbWr with
    | none => .stop .slotOutOfRange
    | some c => if c.filled = true then .refuse .wait else .ok .none (fillSlot d rx)

/-- R185. -/
def ringRead (rx : RxStateOf β) : RingAnswer β :=
  if rx.rbState = .unbuilt then .refuse .state
  else
    match slotRead rx rx.rbRd with
    | none => .stop .slotOutOfRange
    | some c =>
      if c.filled = false then .refuse .wait
      else
        match c.data with
        | none => .stop .slotDataMissing
        | some d => .ok (.block d) (drainSlot d rx)

/-- R187. -/
def ringSetDone (rx : RxStateOf β) : RingAnswer β :=
  if rx.rbState = .unbuilt then .refuse .state else .ok .none { rx with rbDone := true }

/-- R188. -/
def ringGetDone (rx : RxStateOf β) : RingAnswer β :=
  if rx.rbState = .unbuilt then .refuse .state else .ok (.flag rx.rbDone) rx

/-- R189. -/
def ringFree (rx : RxStateOf β) : RingAnswer β :=
  if rx.rbState = .unbuilt then .refuse .state else .ok .none RxStateOf.reset

/-- The value in a response of the machine (R96). -/
def RingValue.response (v : RingValue Block) : RespValue :=
  match v with
  | .none => .none
  | .block d => .block d
  | .flag f => .flag f

/-- A ring operation as one transition of the machine, answered on port `p`. -/
def answerRing (p : Port) (a : RingAnswer Block) (s : State) : Host.Outcome State Fault Refusal :=
  match a with
  | .ok v rx => answer p ⟨.ok, .none, v.response⟩ (s.withRx rx)
  | .refuse st => refuse p st s
  | .stop f => .fault f

/-- `RB_INIT K` (R181). -/
def execRbInit (k : Nat) (s : State) : Host.Outcome State Fault Refusal := answerRing .rxh (ringInit k s.rx) s

/-- `RB_WRITE d` (R183). -/
def execRbWrite (d : Block) (s : State) : Host.Outcome State Fault Refusal := answerRing .prd (ringWrite d s.rx) s

/-- `RB_READ` (R185). -/
def execRbRead (s : State) : Host.Outcome State Fault Refusal := answerRing .cns (ringRead s.rx) s

/-- `RB_SET_DONE` (R187). -/
def execRbSetDone (s : State) : Host.Outcome State Fault Refusal := answerRing .prd (ringSetDone s.rx) s

/-- `RB_GET_DONE` (R188). -/
def execRbGetDone (s : State) : Host.Outcome State Fault Refusal := answerRing .cns (ringGetDone s.rx) s

/-- `RB_FREE` (R189). -/
def execRbFree (s : State) : Host.Outcome State Fault Refusal := answerRing .rxh (ringFree s.rx) s

end Sys2Proof.Machine
end

