-- ==== Sys2Proof/Machine/Dispatch.lean ====
section
/-! DEFINITION. Every operation of the table (R99) and its meaning, one arm each. -/

namespace Sys2Proof.Machine

def exec (i : Instr) (s : State) : Host.Outcome State Fault Refusal :=
  match i with
  | .gap => Sys2Proof.Machine.execGap s
  | .pulse => Sys2Proof.Machine.execPulse s
  | .encode payload => Sys2Proof.Machine.execEncode payload s
  | .actInit => Sys2Proof.Machine.execActInit s
  | .transmit pulseTimeout gapDuration => Sys2Proof.Machine.execTransmit pulseTimeout gapDuration s
  | .cancel => Sys2Proof.Machine.execCancel s
  | .actShutdown => Sys2Proof.Machine.execActShutdown s
  | .rbInit k => Sys2Proof.Machine.execRbInit k s
  | .rbWrite d => Sys2Proof.Machine.execRbWrite d s
  | .rbRead => Sys2Proof.Machine.execRbRead s
  | .rbSetDone => Sys2Proof.Machine.execRbSetDone s
  | .rbGetDone => Sys2Proof.Machine.execRbGetDone s
  | .rbFree => Sys2Proof.Machine.execRbFree s

end Sys2Proof.Machine
end

