-- ==== Sys2Proof/Machine/Turns.lean ====
section
/-! DEFINITION. How one transition of the interleaving is taken (R70, R74): the scheduler's `STEP` (R150), a command
issued on a port (R99, R100), a reset input (R280); and where a table word stands to be fetched next (log 8). -/

namespace Sys2Proof.Machine

/-- The scheduler's advance around the symbol it has run (R150). -/
def afterSymbol (i : Nat) (o : Host.Outcome State Fault Refusal) : Host.Outcome State Fault Refusal :=
  match o with
  | .next t => .next (t.withTx (advanceBit i t.tx))
  | .fault f => .fault f
  | .refused r => .refused r

/-- `STEP`: fetch, run the symbol, advance (R150). -/
def schedulerStep (s : State) : Host.Outcome State Fault Refusal :=
  match fetchBit s.tx with
  | none => .fault .fetchOutOfRange
  | some b => afterSymbol s.tx.bitIdx (exec (decodeSym1 b) s)

/-- The scheduler's turn: `STEP` is enabled exactly while `RUN` (R150); a turn offered while `IDLE` does nothing
(log 24). -/
def schedulerTurn (s : State) : Host.Outcome State Fault Refusal :=
  if s.tx.txState = .run then schedulerStep s else .next s

/-- An operation for any parameters (R10): `exec` with them in place of the values of this hardware. Only `ENCODE`
reads a parameter (R22). -/
def execFor (P : Params) (i : Instr) (s : State) : Host.Outcome State Fault Refusal :=
  match i with
  | .encode payload => execEncodeWith P payload s
  | i => exec i s

/-- A command issued on port `p`: run if the port owns the operation its code selects, else `refuse(ST_ILLEGAL)`
(R99, R100). -/
def commandTurn (P : Params) (p : Port) (op : BitVec 4) (a : Operands) (s : State) :
    Host.Outcome State Fault Refusal :=
  match decode (.cmd4 p op a) with
  | .ok i => execFor P i s
  | .rejected _ => refuse p .illegal s

/-- One transition, taken by the agent whose turn it is (R74). -/
def takeTurn (P : Params) (t : Turn) (s : State) : Host.Outcome State Fault Refusal :=
  match t with
  | .cmd p op a => commandTurn P p op a s
  | .sched => schedulerTurn s
  | .rstTx => .next (rstTx s)
  | .rstRx => .next (rstRx s)

/-- The next transition: the turn that is first in the interleaving; with none queued no agent outside the block
acts, and the scheduler takes its turn (R74, R160; log 1). For any parameters (R10). -/
def nextTransition (P : Params) (s : State) : Host.Outcome State Fault Refusal :=
  match s.env.turns with
  | [] => schedulerTurn s
  | t :: ts => takeTurn P t (s.withTurns ts)

/-- The turn is a `CANCEL` on its port (R99). -/
def isCancel (t : Turn) : Bool :=
  match t with
  | .cmd .can 0b0100#4 _ => true
  | _ => false

/-- The turns of one clock cycle, ordered. Of R252: a `STEP` first and a `CANCEL` before any further `STEP` (a), and a
`CANCEL` before a command on `TXH` (c). DESIGN CHOICE where R252 is silent (log 23): a `STEP` before a command on `TXH`
also with no `CANCEL` in the cycle; `STEP` and `CANCEL` before `RST_TX` and `RST_RX`; how many `STEP`s a cycle holds
(any number: one stands first, the others with the rest); the rest in the order given. -/
def cycleOrder (ts : List Turn) : List Turn :=
  (ts.filter (· == .sched)).take 1 ++ ts.filter isCancel ++ (ts.erase .sched).filter fun t => !isCancel t

/-- A symbol as the one bit of a run that has just begun: the loaded BitSequence, its length, and the selections a
run needs (R52(d), R143; log 8). -/
def loadSymbol (b : Bit) (tx : TxState) : TxState :=
  { tx with
    bits := [b], nbits := 1, bitsValid := true, bitIdx := 0
    actState := .opened, actHandle := some ⟨0⟩, txState := .run }

/-- `w` placed where the next transition fetches it (log 8): a symbol in `BITS` with the scheduler's turn next, a
command as the next turn on the port that owns it. -/
def placeWord (w : OpWord) (s : State) : State :=
  match w with
  | .sym1 b => (s.withTx (loadSymbol b s.tx)).withTurns (.sched :: s.env.turns)
  | .cmd4 p op a => s.withTurns (.cmd p op a :: s.env.turns)

end Sys2Proof.Machine
end

