-- ==== Sys2Proof/Machine/Step.lean ====
section
/-! DEFINITION. One step of the machine: the next transition of the interleaving (R70, R74). -/

namespace Sys2Proof.Machine

/-- One atomic transition (R70, R74). -/
def step (s : State) : Host.Outcome State Fault Refusal := nextTransition Config.params s

/-- `s` with the table word `w` stored where `step` fetches its next instruction (log 7, 8). -/
def State.withFetchWord (s : State) (nbits w : Nat) : State := placeWord (tableWord nbits w) s

end Sys2Proof.Machine
end

