-- ==== Sys2Proof/Machine/Agents.lean ====
section
/-! DEFINITION. The agents' protocols as automata that issue the block's commands and read its responses
(43_environment_agents.md), and the pseudo-operations of R104: everything of the agents that is data. The SampleSource,
the producer loop and the consumer loop, with their real-number formulas, are in Machine/Environment.lean. R8 leaves
the agents outside the hardware; nothing of the block reads this file (log 21). -/

namespace Sys2Proof.Machine

/-! ### Issuing a command -/

/-- The turn in which the owner of `i` issues it; a symbol has none (R50, R99). -/
def turnOf (i : Instr) : Option Turn :=
  match encode i with
  | .sym1 _ => none
  | .cmd4 p op a => some (.cmd p op a)

/-- `i` issued as the next transition, and the response its agent reads (R96). -/
def issue (i : Instr) (s : State) : Option (State × Response) :=
  match turnOf i with
  | none => none
  | some t =>
    match step (s.withTurns (t :: s.env.turns)) with
    | .next u => (u.env.responses.getLast?).map fun r => (u, r.2)
    | .fault _ => none
    | .refused _ => none

/-! ### READ_WAIT and DRAIN (R104, R227) -/

/-- Where the consumer stands in its read protocol (R227). -/
inductive ReadPhase where
  /-- about to read the slot -/
  | look
  /-- the slot was empty: about to check the completion flag -/
  | check
  /-- the flag was seen set: about to look at the slot once more -/
  | lookAgain
  deriving DecidableEq, Repr

/-- What `READ_WAIT` answers (R227). `stopped` is the ring torn down under the consumer (R301; log 21). -/
inductive ReadResult where
  | data (d : Block)
  | endOfStream
  | stopped (st : Status)
  deriving DecidableEq, Repr

/-- The consumer goes on, or `READ_WAIT` answers. -/
inductive ReadNext where
  | go (p : ReadPhase)
  | answer (r : ReadResult)
  deriving DecidableEq, Repr

/-- The command of a phase (R227). -/
def readCommand : ReadPhase → Instr
  | .look => .rbRead
  | .check => .rbGetDone
  | .lookAgain => .rbRead

/-- What the consumer does with the response (R227). -/
def readReact (p : ReadPhase) (r : Response) : ReadNext :=
  match p, r.st, r.v with
  | .look, .ok, .block d => .answer (.data d)
  | .look, _, _ => .go .check
  | .check, .ok, .flag true => .go .lookAgain
  | .check, .ok, _ => .go .look
  | .check, st, _ => .answer (.stopped st)
  | .lookAgain, .ok, .block d => .answer (.data d)
  | .lookAgain, _, _ => .answer .endOfStream

/-- One command of the consumer (R227). -/
def readTurn (p : ReadPhase) (s : State) : Option (State × ReadNext) :=
  (issue (readCommand p) s).map fun x => (x.1, readReact p x.2)

/-- `READ_WAIT` with no other agent between its commands, at most `n` commands; `none` while it still waits. -/
def readWait : Nat → ReadPhase → State → Option (State × ReadResult)
  | 0, _, _ => none
  | n + 1, p, s =>
    match readTurn p s with
    | none => none
    | some (t, .answer r) => some (t, r)
    | some (t, .go q) => readWait n q t

/-- `DRAIN`: `READ_WAIT` until it answers other than data, at most `n` times, with the blocks read in order (R104). -/
def drain : Nat → State → Option (State × List Block × ReadResult)
  | 0, _ => none
  | n + 1, s =>
    match readWait 3 .look s with
    | none => none
    | some (t, .data d) => (drain n t).map fun x => (x.1, d :: x.2.1, x.2.2)
    | some (t, r) => some (t, [], r)

/-! ### WRITE_WAIT (R104) -/

/-- `WRITE_WAIT d`: at most `n` tries, with no other agent between them; `none` while it still waits (R104). -/
def writeWait : Nat → Block → State → Option (State × Status)
  | 0, _, _ => none
  | n + 1, d, s =>
    match issue (.rbWrite d) s with
    | none => none
    | some (t, r) => if r.st = .wait then writeWait n d t else some (t, r.st)

/-! ### SEND (R104) -/

/-- The scheduler alone, at most `n` transitions, until `TX_STATE = IDLE` (R50, R104). -/
def awaitIdle : Nat → State → Option State
  | 0, s => if (statusOutputs s).txState = .idle then some s else none
  | n + 1, s =>
    if (statusOutputs s).txState = .idle then some s
    else
      match step (s.withTurns (.sched :: s.env.turns)) with
      | .next t => awaitIdle n t
      | .fault _ => none
      | .refused _ => none

/-- `SEND payload, T, G`: `ENCODE`, `TRANSMIT`, then wait for `IDLE`, at most `n` scheduler steps (R104). -/
def send (n : Nat) (payload : List Byte) (pulseTimeout gapDuration : Nat) (s : State) : Option State :=
  (issue (.encode payload) s).bind fun e =>
    (issue (.transmit pulseTimeout gapDuration) e.1).bind fun t => awaitIdle n t.1

/-! ### The TX host (R220, R221) -/

/-- How the TX host ends: a command that did not answer `ST_OK`, or the status it read after the run. -/
inductive HostEnd where
  | failed (i : Instr) (st : Status) (ek : ErrKind)
  | ended (st : TxStatus)
  deriving DecidableEq, Repr

/-- Where the TX host stands: commands still to issue, waiting for `TX_STATE = IDLE`, or stopped. -/
inductive HostPhase where
  | issuing (rest : List Instr)
  | waiting
  | stopped (e : HostEnd)
  deriving DecidableEq, Repr

/-- The commands of a transmission; `ENCODE` and `ACT_INIT` in either order (R220). -/
def hostScript (encodeFirst : Bool) (payload : List Byte) (pulseTimeout gapDuration : Nat) : List Instr :=
  if encodeFirst then [.encode payload, .actInit, .transmit pulseTimeout gapDuration]
  else [.actInit, .encode payload, .transmit pulseTimeout gapDuration]

/-- The host after the response to `i`: it stops at the first command that fails (R220). -/
def hostReact (i : Instr) (rest : List Instr) (r : Response) : HostPhase :=
  if r.st = .ok then .issuing rest else .stopped (.failed i r.st r.ek)

/-- One turn of the TX host: a command, or a look at the status outputs (R50, R220). A `CANCEL` may come between any
two turns (R221). -/
def hostTurn (p : HostPhase) (s : State) : Option (State × HostPhase) :=
  match p with
  | .issuing [] => some (s, .waiting)
  | .issuing (i :: rest) => (issue i s).map fun x => (x.1, hostReact i rest x.2)
  | .waiting =>
    some (s, if (statusOutputs s).txState = .idle then .stopped (.ended (statusOutputs s).txStatus) else .waiting)
  | .stopped e => some (s, .stopped e)

/-- `n` turns of the TX host, the scheduler taking a turn after each in which the host waits, no other agent acting. -/
def hostRun : Nat → HostPhase → State → Option (State × HostPhase)
  | 0, p, s => some (s, p)
  | n + 1, p, s =>
    match hostTurn p s with
    | none => none
    | some (t, .waiting) =>
      match step (t.withTurns (.sched :: t.env.turns)) with
      | .next u => hostRun n .waiting u
      | .fault _ => none
      | .refused _ => none
    | some (t, q) => hostRun n q t

/-! ### The RX host (R10, R181, R286) -/

/-- The capacity the RX host asks for: what its configuration gives, else `K_DEFAULT` (R10, R181). -/
def ringCapacity (configured : Option Nat) : Nat := configured.getD Config.kDefault

/-- The RX host builds the ring of a session (R286). -/
def rxHostBuild (configured : Option Nat) (s : State) : Option (State × Response) :=
  issue (.rbInit (ringCapacity configured)) s

end Sys2Proof.Machine
end

