-- ==== Sys2Proof/Machine/Environment.lean ====
section
/-! DEFINITION. The environment of the ring's two ports (43_environment_agents.md): the SampleSource (R229), the
producer loop (R223, R224), the consumer loop (R225), with their formulas over the real numbers (R239), and the
configuration surface and open parameters of R10. Outside the hardware (R8): nothing of the block reads this file
(log 21, 22). -/

namespace Sys2Proof.Machine

/-! ### Parameters (R10) -/

/-- The environment's parameters of a receive session (R10, R229). A rate of 0 and blocks of no samples are excluded by
premise, as U31 asks (R239; log 22). A negative rate is excluded because R226 has every duration positive (DEDUCED,
log 30). -/
structure SourceParams where
  /-- `sample_count` -/
  sampleCount : Nat
  /-- `sample_rate`, in samples per second -/
  sampleRate : ℝ
  /-- `center_frequency` -/
  centerFrequency : ℝ
  rate_pos : 0 < sampleRate
  count_ne_zero : sampleCount ≠ 0

/-- `READ_FAIL_POLICY` (R10, R224). -/
inductive ReadFailPolicy where
  | skip
  | abort
  deriving DecidableEq, Repr

/-- The configuration surface of R10 with the open parameters of the agents. -/
structure Options where
  /-- "pulse count": no meaning inside the block (R10, U28) -/
  pulseCount : Nat
  /-- "pulse timeout/duration", `T` -/
  pulseTimeout : Nat
  /-- "inter-pulse delay", `G` -/
  interPulseDelay : Nat
  /-- "sample count per block, sample rate, center frequency" -/
  source : SourceParams
  /-- "ring buffer capacity", `K` -/
  ringCapacity : Option Nat
  readFailPolicy : ReadFailPolicy

/-- The `TRANSMIT` the options ask for (R10). -/
def Options.transmit (o : Options) : Instr := .transmit o.pulseTimeout o.interPulseDelay

/-- The `RB_INIT` the options ask for (R10, R181). -/
def Options.rbInit (o : Options) : Instr := .rbInit (Machine.ringCapacity o.ringCapacity)

/-- A count of `TICK`s (`T`, `G`, `TX_TIME` or the time of an event) in the unit of a reader who says what one `TICK`
is: `TICK` is an argument of any additive type `τ` (R10, U29). -/
def inTicks {τ : Type} [AddMonoid τ] (tick : τ) (n : Nat) : τ := n • tick

/-! ### The SampleBlock (R222) -/

/-- A SampleBlock: I/Q samples and a duration in milliseconds (R222). A block of no samples, by whose length R225 would
divide, is excluded by premise, as U31 asks (R239; log 22). -/
structure SampleBlock where
  samples  : List ℂ
  duration : ℝ
  samples_ne_nil : samples ≠ []

/-- `sample_count / sample_rate * 1000`, in milliseconds (R222, R223). -/
noncomputable def blockDuration (c : SourceParams) : ℝ := c.sampleCount / c.sampleRate * 1000

/-- A block of the session: `sample_count` samples and the duration computed from the parameters (R222). -/
def SampleBlock.OfSession (c : SourceParams) (b : SampleBlock) : Prop :=
  b.samples.length = c.sampleCount ∧ b.duration = blockDuration c

/-! ### The SampleSource (R229) -/

/-- The handle `configure` returns, opaque (R229; log 10). -/
structure SourceHandle where
  token : Nat
  deriving DecidableEq, Repr

/-- The answer to `configure(sample_rate, center_frequency)` (R229). -/
inductive ConfigureAnswer where
  | ok (h : SourceHandle)
  | configError

/-- The answer to `read_block(handle, n)`: a SampleBlock, given as its `n` samples and its wall-clock duration, or a
failure (R229). -/
inductive ReadAnswer (n : Nat) where
  | ok (samples : Vector ℂ n) (wallClock : ℝ)
  | readError

/-- The error kind of an answer to `configure` (R98). -/
def ConfigureAnswer.kind : ConfigureAnswer → ErrKind
  | .ok _ => .none
  | .configError => .configError

/-- The error kind of an answer to `read_block` (R98). -/
def ReadAnswer.kind {n : Nat} : ReadAnswer n → ErrKind
  | .ok _ _ => .none
  | .readError => .readError

/-- A call the producer agent makes on the SampleSource; the block makes none (R229, R263). -/
inductive SourceCall where
  | configure (sampleRate centerFrequency : ℝ)
  | readBlock (h : SourceHandle) (sampleCount : Nat)

/-! ### The producer loop (R223, R224) -/

/-- What the environment decides in one turn of the producer: the SampleSource's answers, and whether a stop is
requested (R223, U24). -/
structure ProducerDraw (c : SourceParams) where
  configured : ConfigureAnswer
  stop : Bool
  reading : ReadAnswer c.sampleCount

/-- Where the producer stands in its loop (R223). -/
inductive ProducerPhase where
  /-- about to configure the source -/
  | configure
  /-- at the head of the loop -/
  | loop (h : SourceHandle)
  /-- a block to be written, offered until the answer is not `ST_WAIT` -/
  | write (h : SourceHandle) (b : SampleBlock)
  /-- about to set the completion flag -/
  | finish
  /-- stopped, with the error of a failed configuration or none; it issues nothing more -/
  | stopped (ek : ErrKind)

/-- The SampleBlock that `read_block` gives (R229). -/
def blockRead (c : SourceParams) (samples : Vector ℂ c.sampleCount) (wallClock : ℝ) : SampleBlock where
  samples := samples.toList
  duration := wallClock
  samples_ne_nil h := c.count_ne_zero (by simpa using congrArg List.length h)

/-- `B.duration <- sample_count / sample_rate * 1000` (R223). -/
noncomputable def timedBlock (c : SourceParams) (b : SampleBlock) : SampleBlock :=
  { b with duration := blockDuration c }

/-- After a failed `read_block` (R224). -/
def afterReadError (policy : ReadFailPolicy) (h : SourceHandle) : ProducerPhase :=
  match policy with
  | .skip => .loop h
  | .abort => .finish

/-- One turn of the producer (R223, R224): the next state, the next phase and the calls made on the SampleSource.
`name` is the token that stands for a SampleBlock on port `PRD` (log 9). -/
noncomputable def producerTurn (c : SourceParams) (policy : ReadFailPolicy) (name : SampleBlock → Block)
    (e : ProducerDraw c) (p : ProducerPhase) (s : State) : Option (State × ProducerPhase × List SourceCall) :=
  match p with
  | .configure =>
    match e.configured with
    | .ok h => some (s, .loop h, [.configure c.sampleRate c.centerFrequency])
    | .configError => some (s, .stopped e.configured.kind, [.configure c.sampleRate c.centerFrequency])
  | .loop h =>
    if e.stop then some (s, .finish, [])
    else
      match e.reading with
      | .ok samples wallClock =>
        some (s, .write h (timedBlock c (blockRead c samples wallClock)), [.readBlock h c.sampleCount])
      | .readError => some (s, afterReadError policy h, [.readBlock h c.sampleCount])
  | .write h b =>
    (issue (.rbWrite (name b)) s).map fun x => (x.1, if x.2.st = .wait then .write h b else .loop h, [])
  | .finish => (issue .rbSetDone s).map fun x => (x.1, .stopped .none, [])
  | .stopped ek => some (s, .stopped ek, [])

/-! ### The consumer loop (R225) -/

/-- The timestamps of one block: `offset + i * D / L` for `i < L` (R225). -/
noncomputable def blockTimes (offset : ℝ) (b : SampleBlock) : List ℝ :=
  (List.range b.samples.length).map fun (i : Nat) => offset + (i : ℝ) * b.duration / (b.samples.length : ℝ)

/-- What the consumer outputs for one block: the pairs (timestamp, magnitude) (R225). -/
noncomputable def blockOutput (offset : ℝ) (b : SampleBlock) : List (ℝ × ℝ) :=
  (blockTimes offset b).zip (b.samples.map fun z => ‖z‖)

/-- What the consumer outputs for a stream of blocks: the offset advances by each block's duration (R225). -/
noncomputable def envelope (offset : ℝ) : List SampleBlock → List (ℝ × ℝ)
  | [] => []
  | b :: bs => blockOutput offset b ++ envelope (offset + b.duration) bs

/-- The timestamps of a stream of blocks (R225, R226). -/
noncomputable def timeline (offset : ℝ) : List SampleBlock → List ℝ
  | [] => []
  | b :: bs => blockTimes offset b ++ timeline (offset + b.duration) bs

/-- Where the consumer stands: in `READ_WAIT` with its running offset, or stopped with the answer that ended it. -/
inductive ConsumerPhase where
  | reading (offset : ℝ) (p : ReadPhase)
  | stopped (r : ReadResult)

/-- `offset <- 0` (R225). -/
noncomputable def consumerStart : ConsumerPhase := .reading 0 .look

/-- One turn of the consumer (R225, R227): the next state, the next phase and the output. `value` is the SampleBlock a
token stands for (log 9). -/
noncomputable def consumerTurn (value : Block → SampleBlock) (p : ConsumerPhase) (s : State) :
    Option (State × ConsumerPhase × List (ℝ × ℝ)) :=
  match p with
  | .reading offset q =>
    (readTurn q s).map fun x =>
      match x.2 with
      | .go q' => (x.1, .reading offset q', [])
      | .answer (.data d) => (x.1, .reading (offset + (value d).duration) .look, blockOutput offset (value d))
      | .answer r => (x.1, .stopped r, [])
  | .stopped r => some (s, .stopped r, [])

/-- `n` turns of the consumer with no other agent between them, and all it outputs. -/
noncomputable def consumerRun (value : Block → SampleBlock) :
    Nat → ConsumerPhase → State → Option (State × ConsumerPhase × List (ℝ × ℝ))
  | 0, p, s => some (s, p, [])
  | n + 1, p, s =>
    match consumerTurn value p s with
    | none => none
    | some (t, q, out) => (consumerRun value n q t).map fun x => (x.1, x.2.1, out ++ x.2.2)

end Sys2Proof.Machine
end

