-- ==== Sys2Proof/Safety.lean ====
section
/-! DEFINITION. What claims are stated in: the invariants of R52 and R53, the ends of a transmission and of a stream
(R308), the event stream of a run (R154), renaming of Blocks (R62), the turns that leave a ring alone (R291), and
executions with fairness (R228). -/

namespace Sys2Proof.Machine

/-! ### Invariants -/

/-- The TX invariants of R52 for the parameters `P`. -/
structure TxInv (P : Params) (tx : TxState) : Prop where
  /-- R52(a) -/
  paylen_eq : tx.paylen = tx.pay.length
  /-- R52(a) -/
  nbits_eq : tx.nbits = tx.bits.length
  /-- R52(b) -/
  bits_eq : tx.bitsValid = true → tx.bits = encodePayload P.preamble tx.pay
  /-- R52(c) -/
  open_iff : tx.actState = .opened ↔ tx.actHandle ≠ none
  /-- R52(d) -/
  run_ready : tx.txState = .run → tx.bitsValid = true ∧ tx.actState = .opened ∧ tx.bitIdx < tx.nbits
  /-- R52(e) -/
  run_time : tx.txState = .run →
    tx.txTime = ones (tx.bits.take tx.bitIdx) * tx.txT + zeros (tx.bits.take tx.bitIdx) * tx.txG
  /-- R52(e) -/
  run_fails : tx.txState = .run → tx.failCnt ≤ ones (tx.bits.take tx.bitIdx)

/-- `SLOT_DATA[i]`; `none` also where there is no slot `i` (R40). -/
def dataAt (rx : RxState) (i : Nat) : Option Block := (slotRead rx i).bind (·.data)

/-- The RX invariants of R53, as it writes them. -/
structure RingInv (rx : RxState) : Prop where
  /-- the legal values of `RB_K` (R21) -/
  two_le : 2 ≤ rx.rbK
  /-- there are `RB_K` slots (R40) -/
  slots_length : rx.slots.length = rx.rbK
  /-- R53(a) -/
  occ_le : occ rx ≤ rx.rbK
  /-- R53(b) -/
  filled_iff : ∀ i < rx.rbK, markerAt rx i = some true ↔ ∃ j < occ rx, i = (rx.rbRd + j) % rx.rbK
  /-- R53(c) -/
  wr_eq : rx.rbWr = (rx.rbRd + occ rx) % rx.rbK
  /-- R53(d) -/
  data_iff : ∀ i < rx.rbK, dataAt rx i = none ↔ markerAt rx i = some false
  /-- R53(e) -/
  wseq_eq : rx.rbWseq.map some =
    rx.rbRseq.map some ++ (List.range (occ rx)).map fun j => dataAt rx ((rx.rbRd + j) % rx.rbK)
  /-- R53(f) -/
  wseq_mod : rx.rbWseq.length % rx.rbK = rx.rbWr
  /-- R53(f) -/
  rseq_mod : rx.rbRseq.length % rx.rbK = rx.rbRd

/-- The blocks written and not yet read, in order, by the ghost histories. -/
def pendingBlocks (rx : RxState) : List Block := rx.rbWseq.drop rx.rbRseq.length

/-- The same ring seen as a queue: what was read comes first in what was written, and the cycle of slots, read from
the read cursor on, holds the pending blocks in order and then EMPTY slots. -/
structure RingView (rx : RxState) : Prop where
  two_le : 2 ≤ rx.rbK
  slots_length : rx.slots.length = rx.rbK
  read_first : rx.rbRseq <+: rx.rbWseq
  pending_le : (pendingBlocks rx).length ≤ rx.rbK
  wr_eq : rx.rbWr = rx.rbWseq.length % rx.rbK
  rd_eq : rx.rbRd = rx.rbRseq.length % rx.rbK
  cycle_eq : rx.slots.rotate rx.rbRd =
    (pendingBlocks rx).map Slot.full ++ List.replicate (rx.rbK - (pendingBlocks rx).length) Slot.empty

/-- The RX side is sound: no ring and every element at reset (R38, R189), or a ring that keeps R53. -/
def RxInv (rx : RxState) : Prop :=
  match rx.rbState with
  | .unbuilt => rx = RxState.reset
  | .built => RingInv rx

/-- The invariant of the machine (R52, R53). -/
structure Sound (s : State) : Prop where
  tx : TxInv Config.params s.tx
  rx : RxInv s.rx

/-! ### The ends of a transmission and of a stream (R308) -/

/-- A transmission has ended (R308). -/
def transmissionEnded (tx : TxState) : Bool :=
  tx.txState == .idle && (tx.txStatus == .done || tx.txStatus == .cancelled)

/-- A transmission ended complete (R308). -/
def endedComplete (tx : TxState) : Bool := tx.txState == .idle && tx.txStatus == .done

/-- A receive stream has ended: the flag is set and the ring is empty (R308). -/
def streamEnded (rx : RxState) : Bool := rx.rbState == .built && rx.rbDone && ringEmpty rx

/-! ### The event stream of a run (R154) -/

/-- The events of the bits `s` scheduled from time `t` on, the pulses answered by `answers` in order (R154). -/
def runEvents (pulseTimeout gapDuration : Nat) : List Bit → List PulseAnswer → Nat → List Event
  | [], _, _ => []
  | b :: bs, rs, t =>
    if b = 1 then
      .pulse t pulseTimeout (rs.headD .ok) :: runEvents pulseTimeout gapDuration bs rs.tail (t + pulseTimeout)
    else .gap t gapDuration :: runEvents pulseTimeout gapDuration bs rs (t + gapDuration)

/-- How many of the answers are failures (R154). -/
def failures (rs : List PulseAnswer) : Nat := rs.countP (· ≠ .ok)

/-! ### Renaming of Blocks (R62) -/

/-- `rx` with every Block renamed by `f`, from one type of Blocks to another. -/
def RxStateOf.rename {α β : Type} (f : α → β) (rx : RxStateOf α) : RxStateOf β where
  rbState := rx.rbState
  rbK := rx.rbK
  slots := rx.slots.map fun c => ⟨c.filled, c.data.map f⟩
  rbWr := rx.rbWr
  rbRd := rx.rbRd
  rbDone := rx.rbDone
  rbWseq := rx.rbWseq.map f
  rbRseq := rx.rbRseq.map f

/-- The value of a ring operation with its Block renamed. -/
def RingValue.rename {α β : Type} (f : α → β) (v : RingValue α) : RingValue β :=
  match v with
  | .none => .none
  | .block d => .block (f d)
  | .flag b => .flag b

/-- What a ring operation does, with every Block renamed. -/
def RingAnswer.rename {α β : Type} (f : α → β) (a : RingAnswer α) : RingAnswer β :=
  match a with
  | .ok v rx => .ok (v.rename f) (rx.rename f)
  | .refuse st => .refuse st
  | .stop e => .stop e

/-- A response with the Block it carries renamed. -/
def renameResponse (f : Block → Block) (r : Response) : Response :=
  match r.v with
  | .block d => { r with v := .block (f d) }
  | _ => r

/-- An operation with the Block it carries renamed. -/
def renameInstr (f : Block → Block) (i : Instr) : Instr :=
  match i with
  | .rbWrite d => .rbWrite (f d)
  | _ => i

/-- `rx` without its ghost histories (R46). -/
def RxStateOf.withoutGhost {β : Type} (rx : RxStateOf β) : RxStateOf β := { rx with rbWseq := [], rbRseq := [] }

/-! ### Turns that leave the life of a ring alone (R291) -/

/-- The turn is neither a construction, nor a teardown of the ring, nor `RST_RX` (R291). -/
def keepsRing : Turn → Bool
  | .cmd .rxh _ _ => false
  | .cmd _ _ _ => true
  | .sched => true
  | .rstTx => true
  | .rstRx => false

/-- An operation of the TX path (bit 3 of its code is 0, or a symbol) (R18, R92). -/
def isTxOp : Instr → Bool
  | .gap => true
  | .pulse => true
  | .encode _ => true
  | .actInit => true
  | .transmit _ _ => true
  | .cancel => true
  | .actShutdown => true
  | .rbInit _ => false
  | .rbWrite _ => false
  | .rbRead => false
  | .rbSetDone => false
  | .rbGetDone => false
  | .rbFree => false

/-! ### Executions, fairness and waiting (R74, R228) -/

/-- An execution: turn `u n` takes state `σ n` to `σ (n + 1)`; the order of the turns is free (R74). -/
def IsExecution (u : Nat → Turn) (σ : Nat → State) : Prop :=
  ∀ n, takeTurn Config.params (u n) (σ n) = .next (σ (n + 1))

/-- Weak fairness: an agent that from some point on stays able to take a step takes one (R228, D32). -/
def WeaklyFair (u : Nat → Turn) (able : Nat → Prop) (own : Turn → Prop) : Prop :=
  ∀ n, (∀ m, n ≤ m → able m) → ∃ m, n ≤ m ∧ own (u m)

/-- The turn is a command on port `p`. -/
def onPort (p : Port) (t : Turn) : Prop := ∃ op a, t = .cmd p op a

/-- The turn is `RB_WRITE d` (R99). -/
def offers (d : Block) (t : Turn) : Prop := ∃ a : Operands, a.d = d ∧ t = .cmd .prd 0b1001 a

/-- The turn is the command `i` of an agent, whatever its unused operand lanes hold. -/
def isCommand (i : Instr) (t : Turn) : Prop :=
  ∃ p op a, t = .cmd p op a ∧ decode (.cmd4 p op a) = .ok i

/-- The consumer in an execution follows `READ_WAIT`: on port `CNS` it issues the command of its phase and goes on with
the response; other turns leave its phase alone; once answered, `READ_WAIT` stays answered (R227). -/
def FollowsReadWait (u : Nat → Turn) (σ : Nat → State) (q : Nat → ReadNext) : Prop :=
  ∀ n,
    (∀ r, q n = .answer r → q (n + 1) = .answer r) ∧
    (∀ p, q n = .go p → ¬onPort .cns (u n) → q (n + 1) = .go p) ∧
    (∀ p, q n = .go p → onPort .cns (u n) →
      isCommand (readCommand p) (u n) ∧
      ∃ r, (σ (n + 1)).env.responses = (σ n).env.responses ++ [(.cns, r)] ∧ q (n + 1) = readReact p r)

end Sys2Proof.Machine
end

