-- ==== Sys2Proof/Certificates/Slice0/Obligations.lean ====
section
/-! DEFINITION. The statements for the provers. Each docstring names the rule it formalises. Next states are written
out, so that every element a statement does not name is left as it was. A response, a call of the Actuator and a draw
are seen in the model's own fields `env.responses`, `env.actCalls` and `env.draws` (log 2, 3, 4): that they are kept
there is the model's choice, what is answered, called and drawn is the rule's. -/

open Sys2Proof Sys2Proof.Machine

/-! ### Words and operations -/

/-- R91, R99: the words of the table and the operations they stand for, whatever travels in the operand lanes. -/
def Obligations.TableWordsDecode : Prop :=
  ∀ a : Operands,
    decode (.sym1 0b0) = .ok .gap ∧
    decode (.sym1 0b1) = .ok .pulse ∧
    decode (.cmd4 .txh 0b0001 a) = .ok (.encode a.payload) ∧
    decode (.cmd4 .txh 0b0010 a) = .ok .actInit ∧
    decode (.cmd4 .txh 0b0011 a) = .ok (.transmit a.pulseTimeout a.gapDuration) ∧
    decode (.cmd4 .can 0b0100 a) = .ok .cancel ∧
    decode (.cmd4 .txh 0b0101 a) = .ok .actShutdown ∧
    decode (.cmd4 .rxh 0b1000 a) = .ok (.rbInit a.k) ∧
    decode (.cmd4 .prd 0b1001 a) = .ok (.rbWrite a.d) ∧
    decode (.cmd4 .cns 0b1010 a) = .ok .rbRead ∧
    decode (.cmd4 .prd 0b1011 a) = .ok .rbSetDone ∧
    decode (.cmd4 .cns 0b1100 a) = .ok .rbGetDone ∧
    decode (.cmd4 .rxh 0b1101 a) = .ok .rbFree

/-- R90, R99: decoding the word of any operation gives it back with every operand, and any word that decodes to `i`
has the format, the port and the code of the encoder's word. The operand lanes are the model's form (log 6). -/
def Obligations.DecodeEncodeRoundTrip : Prop :=
  (∀ i, decode (encode i) = .ok i) ∧
  (∀ b i, decode (.sym1 b) = .ok i → encode i = .sym1 b) ∧
  (∀ p op a i, decode (.cmd4 p op a) = .ok i → ∃ a', encode i = .cmd4 p op a' ∧ decode (.cmd4 p op a') = .ok i) ∧
  (∀ i j, encode i = encode j → i = j)

/-- R100: a reserved code, and a defined code on a port that does not own the operation, is `refuse(ST_ILLEGAL)`: only
the response is new. -/
def Obligations.IllegalCommandsAreRefused : Prop :=
  (∀ s p op a ts, s.env.turns = .cmd p op a :: ts → op ∈ [0b0000#4, 0b0110#4, 0b0111#4, 0b1110#4, 0b1111#4] →
    step s = .next ((s.withTurns ts).respond p ⟨.illegal, .none, .none⟩)) ∧
  (∀ s p q op a ts i, s.env.turns = .cmd p op a :: ts → decode (.cmd4 q op a) = .ok i → p ≠ q →
    step s = .next ((s.withTurns ts).respond p ⟨.illegal, .none, .none⟩))

/-- R74, R150: a step runs the operation decoded from what it fetches. A command on its port is `exec` of it, its turn
taken off the interleaving (log 1). A symbol is `exec` of it, then `BIT_IDX <- i + 1` and, after the last bit,
`TX_STATE <- IDLE`, `TX_STATUS <- DONE`, `BITS_VALID <- 0`. -/
def Obligations.StepRunsTheDecodedOperation : Prop :=
  (∀ s p op a ts i, s.env.turns = .cmd p op a :: ts → decode (.cmd4 p op a) = .ok i →
    step s = exec i (s.withTurns ts)) ∧
  (∀ s b i, s.tx.txState = .run → (s.env.turns = [] ∨ ∃ ts, s.env.turns = .sched :: ts) →
    s.tx.bits[s.tx.bitIdx]? = some b → decode (.sym1 b) = .ok i →
    ∃ u, exec i (s.withTurns s.env.turns.tail) = .next u ∧
      step s = .next (u.withTx
        (if s.tx.bitIdx + 1 = s.tx.nbits then
          { u.tx with bitIdx := s.tx.bitIdx + 1, txState := .idle, txStatus := .done, bitsValid := false }
        else { u.tx with bitIdx := s.tx.bitIdx + 1 })))

/-- R150, R281: while `IDLE` the scheduler has no step: with nothing issued nothing changes, and a turn offered to it
is only taken off (log 1, 24). -/
def Obligations.IdleSchedulerDoesNothing : Prop :=
  ∀ s, s.tx.txState = .idle → (s.env.turns = [] ∨ ∃ ts, s.env.turns = .sched :: ts) →
    step s = .next (s.withTurns s.env.turns.tail)

/-- R96: what a response holds. Every command answers exactly one response, on the port that owns it; `ek` is 0
unless `ST_DEVERR`; a value comes only from `ENCODE`, `RB_READ` (a Block when `ST_OK`) and `RB_GET_DONE`. A symbol
answers nothing. And the numbers of the statuses and the error kinds (R97, R98). -/
def Obligations.EveryCommandAnswersOnce : Prop :=
  [Status.ok, .wait, .busy, .state, .param, .illegal, .deverr].map Status.code = [0, 1, 2, 3, 4, 5, 6] ∧
  [ErrKind.none, .notFound, .alreadyInitialized, .accessDenied, .timeout, .canceled, .notSupported,
    .otherDeviceError, .configError, .readError].map ErrKind.code = [0, 1, 2, 3, 4, 5, 6, 7, 8, 9] ∧
  ∀ i s t, exec i s = .next t →
    (i.port = none → t.env.responses = s.env.responses) ∧
    (∀ p, i.port = some p → ∃ r, t.env.responses = s.env.responses ++ [(p, r)] ∧
      (r.ek ≠ .none → r.st = .deverr) ∧
      (r.st = .deverr → i = .actInit) ∧
      (∀ bs, r.v = .bits bs → ∃ payload, i = .encode payload ∧ bs = encodePayload Config.preamble payload) ∧
      (∀ d, r.v = .block d → i = .rbRead ∧ r.st = .ok) ∧
      (i = .rbRead → r.st = .ok → ∃ d, r.v = .block d) ∧
      (∀ f, r.v = .flag f → i = .rbGetDone ∧ f = s.rx.rbDone))

/-- R97, R243: an answer of `ST_WAIT`, `ST_BUSY`, `ST_STATE` or `ST_PARAM` comes with no state element changed, no
event, no call and no draw: only the response is new. `ST_ILLEGAL` is in `IllegalCommandsAreRefused`. -/
def Obligations.RefusalsChangeNothing : Prop :=
  ∀ i s t p r, exec i s = .next t → i.port = some p → t.env.responses = s.env.responses ++ [(p, r)] →
    r.st ∈ [Status.wait, .busy, .state, .param] → t = s.respond p r

/-- R18: no TX operation reads or writes an RX element and no RX operation reads or writes a TX element: with other
elements on the far side, the operation gives the same result and leaves them as they were. -/
def Obligations.PathsShareNothing : Prop :=
  (∀ i s t, isTxOp i = true → exec i s = .next t →
    t.rx = s.rx ∧ ∀ rx, exec i (s.withRx rx) = .next (t.withRx rx)) ∧
  (∀ i s t, isTxOp i = false → exec i s = .next t →
    t.tx = s.tx ∧ ∀ tx, exec i (s.withTx tx) = .next (t.withTx tx))

/-- R82: a TX operation and an RX operation commute on the state elements of both paths, on the Actuator's calls and
draws and on what each port is answered. -/
def Obligations.PathsCommute : Prop :=
  ∀ i j s u t u' t', isTxOp i = true → isTxOp j = false →
    exec i s = .next u → exec j u = .next t → exec j s = .next u' → exec i u' = .next t' →
    t.tx = t'.tx ∧ t.rx = t'.rx ∧ t.env.actCalls = t'.env.actCalls ∧ t.env.draws = t'.env.draws ∧
      ∀ p, t.env.responses.filter (·.1 = p) = t'.env.responses.filter (·.1 = p)

/-! ### Bits and bytes -/

/-- R233: `bits8(v)[m] = (v div 2^(7 - m)) mod 2`, and `byte8` and `bits8` are inverses of each other. -/
def Obligations.ByteAndBitsAreInverse : Prop :=
  (∀ v : Byte, byte8 (bits8 v) = v) ∧
  (∀ b : List Bit, b.length = 8 → bits8 (byte8 b) = b) ∧
  (∀ v : Byte, ∀ m < 8, (bits8 v)[m]? = some (BitVec.ofNat 1 (v.toNat / 2 ^ (7 - m) % 2))) ∧
  (∀ b : List Bit, b.length = 8 →
    (byte8 b).toNat = ((List.range 8).map fun m => (b.getD m 0).toNat * 2 ^ (7 - m)).sum)

/-- R126: the round-trip law, for every preamble and every payload; what `decode` gives on its domain, and where it is
not defined. -/
def Obligations.PayloadRoundTrip : Prop :=
  (∀ (preamble : List Bit) (payload : List Byte),
    decodePayload preamble.length (encodePayload preamble payload) = some payload) ∧
  (∀ pl n (s : List Bit), s.length = pl + 8 * n →
    decodePayload pl s = some ((List.range n).map fun j => byte8 ((s.drop (pl + 8 * j)).take 8))) ∧
  (∀ pl (s : List Bit), decodePayload pl s = none ↔ s.length < pl ∨ (s.length - pl) % 8 ≠ 0)

/-- R123: the length law. -/
def Obligations.EncodedLength : Prop :=
  (∀ (P : Params) (payload : List Byte), (encodePayload P.preamble payload).length = P.pl + 8 * payload.length) ∧
  (∀ payload : List Byte, (encodePayload Config.preamble payload).length = 13 + 8 * payload.length)

/-- R124: the prefix law and the empty payload; R125: injectivity, which it derives from R126. -/
def Obligations.EncodedPrefixAndInjectivity : Prop :=
  ∀ preamble : List Bit,
    (∀ payload : List Byte, (encodePayload preamble payload).take preamble.length = preamble) ∧
    encodePayload preamble [] = preamble ∧
    (∀ p q : List Byte, encodePayload preamble p = encodePayload preamble q → p = q)

/-- R66: `BITS[i] = bit_at(i)` for every valid index while `BITS_VALID = 1`, and where bit `k` of payload byte `j`
stands. -/
def Obligations.BitViewAgrees : Prop :=
  (∀ (P : Params) (tx : TxState), TxInv P tx → tx.bitsValid = true →
    ∀ i < tx.nbits, tx.bits[i]? = bitAt P.preamble tx.pay i) ∧
  (∀ (P : Params) (tx : TxState), TxInv P tx → tx.bitsValid = true →
    ∀ j k v, tx.pay[j]? = some v → k < 8 → tx.bits[P.pl + 8 * j + (7 - k)]? = some (bitOf v k))

/-! ### The bit-encoder -/

/-- R121: `ENCODE` whole: its word, its three outcomes for any parameters, and what it does on this hardware, where no
payload is too long. -/
def Obligations.EncodeOperation : Prop :=
  (∀ a, decode (.cmd4 .txh 0b0001 a) = .ok (.encode a.payload)) ∧
  (∀ P payload s, s.tx.txState = .run →
    execEncodeWith P payload s = .next (s.respond .txh ⟨.busy, .none, .none⟩)) ∧
  (∀ P payload s m, s.tx.txState = .idle → P.payloadMax = some m → m < payload.length →
    execEncodeWith P payload s = .next (s.respond .txh ⟨.param, .none, .none⟩)) ∧
  (∀ P payload s, s.tx.txState = .idle → (∀ m, P.payloadMax = some m → payload.length ≤ m) →
    execEncodeWith P payload s = .next (State.respond
      { s with tx := { s.tx with
          pay := payload, paylen := payload.length, bits := P.preamble ++ payload.flatMap bits8,
          nbits := P.preamble.length + 8 * payload.length, bitsValid := true } }
      .txh ⟨.ok, .none, .bits (P.preamble ++ payload.flatMap bits8)⟩)) ∧
  (∀ payload s, s.tx.txState = .run →
    exec (.encode payload) s = .next (s.respond .txh ⟨.busy, .none, .none⟩)) ∧
  (∀ payload s, s.tx.txState = .idle →
    exec (.encode payload) s = .next (State.respond
      { s with tx := { s.tx with
          pay := payload, paylen := payload.length,
          bits := [1, 1, 1, 1, 1, 0, 0, 1, 1, 0, 1, 0, 1] ++ payload.flatMap bits8,
          nbits := 13 + 8 * payload.length, bitsValid := true } }
      .txh ⟨.ok, .none, .bits ([1, 1, 1, 1, 1, 0, 0, 1, 1, 0, 1, 0, 1] ++ payload.flatMap bits8)⟩))

/-- The range R21 notes for S11, `BIT_IDX <= NBITS` while `BITS_VALID = 1`, is not kept: R121 writes no `BIT_IDX`, so
`ENCODE` of a shorter payload after a longer run leaves it above `NBITS`. Not a rule of the spec: log 18 (DEDUCED). -/
def Obligations.EncodeMayLeaveBitIdxAboveLength : Prop :=
  ∀ payload s, s.tx.txState = .idle → 13 + 8 * payload.length < s.tx.bitIdx →
    ∃ t, exec (.encode payload) s = .next t ∧ t.tx.bitsValid = true ∧ t.tx.nbits < t.tx.bitIdx

/-! ### The pulse-scheduler -/

/-- R141: `ACT_INIT` whole, with the three fatal kinds and their codes. The answer is whatever the Actuator gives. -/
def Obligations.ActInitOperation : Prop :=
  (∀ a, decode (.cmd4 .txh 0b0010 a) = .ok .actInit) ∧
  [InitError.notFound, .alreadyInitialized, .accessDenied].map InitError.kind =
    [ErrKind.notFound, .alreadyInitialized, .accessDenied] ∧
  [ErrKind.none, .notFound, .alreadyInitialized, .accessDenied].map ErrKind.code = [0, 1, 2, 3] ∧
  (∀ s, s.tx.txState = .run → exec .actInit s = .next (s.respond .txh ⟨.busy, .none, .none⟩)) ∧
  (∀ s, s.tx.txState = .idle → s.tx.actState = .opened →
    exec .actInit s = .next (State.respond
      { s with tx := { s.tx with fatalErr := .alreadyInitialized, txStatus := .aborted } }
      .txh ⟨.deverr, .alreadyInitialized, .none⟩)) ∧
  (∀ s h, s.tx.txState = .idle → s.tx.actState = .closed → s.env.nextInit = .ok h →
    exec .actInit s = .next (State.respond
      { s with
        tx := { s.tx with
          actState := .opened, actHandle := some h, fatalErr := .none, txStatus := .none,
          txEv := s.tx.txEv ++ [.init (.ok h)] }
        env := { s.env with
          initAnswers := s.env.initAnswers.tail, draws := s.env.draws + 1,
          actCalls := s.env.actCalls ++ [.opening] } }
      .txh ⟨.ok, .none, .none⟩)) ∧
  (∀ s k, s.tx.txState = .idle → s.tx.actState = .closed → s.env.nextInit = .err k →
    exec .actInit s = .next (State.respond
      { s with
        tx := { s.tx with
          fatalErr := k.kind, txStatus := .aborted, txEv := s.tx.txEv ++ [.init (.err k)] }
        env := { s.env with
          initAnswers := s.env.initAnswers.tail, draws := s.env.draws + 1,
          actCalls := s.env.actCalls ++ [.opening] } }
      .txh ⟨.deverr, k.kind, .none⟩))

/-- R244: after a fatal initialisation error `BITS`, `BITS_VALID`, the counters and the Actuator's state are as they
were, the kind (1 to 3, by name) is latched and returned, the event is emitted if the device was called, and while the Actuator is
`CLOSED` no transmission begins. -/
def Obligations.FatalErrorStartsNothing : Prop :=
  ∀ s t r, exec .actInit s = .next t → t.env.responses = s.env.responses ++ [(.txh, r)] → r.st = .deverr →
    t.tx.fatalErr = r.ek ∧
    t.tx.txStatus = .aborted ∧
    t.tx = { s.tx with fatalErr := r.ek, txStatus := .aborted, txEv := t.tx.txEv } ∧
    (s.tx.actState = .opened → t.tx.txEv = s.tx.txEv ∧ r.ek = .alreadyInitialized ∧ r.ek.code = 2) ∧
    (s.tx.actState = .closed → ∃ k, s.env.nextInit = .err k ∧ t.tx.txEv = s.tx.txEv ++ [.init (.err k)] ∧
      (k, r.ek, r.ek.code) ∈
        [(InitError.notFound, ErrKind.notFound, 1), (.alreadyInitialized, .alreadyInitialized, 2),
          (.accessDenied, .accessDenied, 3)]) ∧
    (t.tx.actState = .closed → ∀ T G,
      exec (.transmit T G) t = .next (t.respond .txh ⟨.state, .none, .none⟩))

/-- R143: `TRANSMIT T, G` whole. -/
def Obligations.TransmitOperation : Prop :=
  (∀ a, decode (.cmd4 .txh 0b0011 a) = .ok (.transmit a.pulseTimeout a.gapDuration)) ∧
  (∀ T G s, s.tx.txState = .run → exec (.transmit T G) s = .next (s.respond .txh ⟨.busy, .none, .none⟩)) ∧
  (∀ T G s, s.tx.txState = .idle → (s.tx.bitsValid = false ∨ s.tx.actState = .closed) →
    exec (.transmit T G) s = .next (s.respond .txh ⟨.state, .none, .none⟩)) ∧
  (∀ T G s, s.tx.txState = .idle → s.tx.bitsValid = true → s.tx.actState = .opened → s.tx.nbits = 0 →
    exec (.transmit T G) s = .next (State.respond
      { s with tx := { s.tx with
          txT := T, txG := G, bitIdx := 0, txTime := 0, failCnt := 0, lastErr := .none,
          txStatus := .done, bitsValid := false } }
      .txh ⟨.ok, .none, .none⟩)) ∧
  (∀ T G s, s.tx.txState = .idle → s.tx.bitsValid = true → s.tx.actState = .opened → s.tx.nbits ≠ 0 →
    exec (.transmit T G) s = .next (State.respond
      { s with tx := { s.tx with
          txT := T, txG := G, bitIdx := 0, txTime := 0, failCnt := 0, lastErr := .none,
          txStatus := .none, txState := .run } }
      .txh ⟨.ok, .none, .none⟩))

/-- R151: `PULSE` whole, for either kind of answer: the event, the time, and on failure the count and the kind, with
the four transient kinds and their codes. The run's state is not touched. -/
def Obligations.PulseOperation : Prop :=
  decode (.sym1 0b1) = .ok .pulse ∧
  [PulseError.timeout, .canceled, .notSupported, .otherDeviceError].map PulseError.kind =
    [ErrKind.timeout, .canceled, .notSupported, .otherDeviceError] ∧
  [ErrKind.timeout, .canceled, .notSupported, .otherDeviceError].map ErrKind.code = [4, 5, 6, 7] ∧
  (∀ s, s.env.nextPulse = .ok →
    exec .pulse s = .next
      { s with
        tx := { s.tx with
          txTime := s.tx.txTime + s.tx.txT, txEv := s.tx.txEv ++ [.pulse s.tx.txTime s.tx.txT .ok] }
        env := { s.env with
          pulseAnswers := s.env.pulseAnswers.tail, draws := s.env.draws + 1,
          actCalls := s.env.actCalls ++ [.pulse s.tx.actHandle s.tx.txT] } }) ∧
  (∀ s k, s.env.nextPulse = .err k →
    exec .pulse s = .next
      { s with
        tx := { s.tx with
          failCnt := s.tx.failCnt + 1, lastErr := k.kind,
          txTime := s.tx.txTime + s.tx.txT, txEv := s.tx.txEv ++ [.pulse s.tx.txTime s.tx.txT (.err k)] }
        env := { s.env with
          pulseAnswers := s.env.pulseAnswers.tail, draws := s.env.draws + 1,
          actCalls := s.env.actCalls ++ [.pulse s.tx.actHandle s.tx.txT] } })

/-- R152: `GAP` whole: its event and its duration, and no call of the Actuator. -/
def Obligations.GapOperation : Prop :=
  decode (.sym1 0b0) = .ok .gap ∧
  ∀ s, exec .gap s = .next
    { s with tx := { s.tx with
        txTime := s.tx.txTime + s.tx.txG, txEv := s.tx.txEv ++ [.gap s.tx.txTime s.tx.txG] } }

/-- R155: `CANCEL` whole: accepted in every state; an open Actuator is shut down; a run ends `CANCELLED`. -/
def Obligations.CancelOperation : Prop :=
  (∀ a, decode (.cmd4 .can 0b0100 a) = .ok .cancel) ∧
  (∀ s, s.tx.actState = .opened → s.tx.txState = .run →
    exec .cancel s = .next (State.respond
      { s with
        tx := { s.tx with
          txEv := s.tx.txEv ++ [.shutdown], actState := .closed, actHandle := none,
          txState := .idle, txStatus := .cancelled, bitsValid := false }
        env := { s.env with actCalls := s.env.actCalls ++ [.shutdown s.tx.actHandle] } }
      .can ⟨.ok, .none, .none⟩)) ∧
  (∀ s, s.tx.actState = .opened → s.tx.txState = .idle →
    exec .cancel s = .next (State.respond
      { s with
        tx := { s.tx with txEv := s.tx.txEv ++ [.shutdown], actState := .closed, actHandle := none }
        env := { s.env with actCalls := s.env.actCalls ++ [.shutdown s.tx.actHandle] } }
      .can ⟨.ok, .none, .none⟩)) ∧
  (∀ s, s.tx.actState = .closed → s.tx.txState = .run →
    exec .cancel s = .next (State.respond
      { s with tx := { s.tx with txState := .idle, txStatus := .cancelled, bitsValid := false } }
      .can ⟨.ok, .none, .none⟩)) ∧
  (∀ s, s.tx.actState = .closed → s.tx.txState = .idle →
    exec .cancel s = .next (s.respond .can ⟨.ok, .none, .none⟩))

/-- R157: `ACT_SHUTDOWN` whole. -/
def Obligations.ActShutdownOperation : Prop :=
  (∀ a, decode (.cmd4 .txh 0b0101 a) = .ok .actShutdown) ∧
  (∀ s, s.tx.txState = .run → exec .actShutdown s = .next (s.respond .txh ⟨.busy, .none, .none⟩)) ∧
  (∀ s, s.tx.txState = .idle → s.tx.actState = .closed →
    exec .actShutdown s = .next (s.respond .txh ⟨.state, .none, .none⟩)) ∧
  (∀ s, s.tx.txState = .idle → s.tx.actState = .opened →
    exec .actShutdown s = .next (State.respond
      { s with
        tx := { s.tx with txEv := s.tx.txEv ++ [.shutdown], actState := .closed, actHandle := none }
        env := { s.env with actCalls := s.env.actCalls ++ [.shutdown s.tx.actHandle] } }
      .txh ⟨.ok, .none, .none⟩))

/-- R32: no step sets `BIT_IDX` to any value other than 0 (an accepted `TRANSMIT`, or `RST_TX`) or its old value plus 1
(a `STEP`). -/
def Obligations.BitIdxHasThreeSuccessors : Prop :=
  ∀ s t, step s = .next t →
    t.tx.bitIdx = s.tx.bitIdx ∨
    (t.tx.bitIdx = s.tx.bitIdx + 1 ∧ s.tx.txState = .run ∧ (s.env.turns = [] ∨ ∃ ts, s.env.turns = .sched :: ts)) ∨
    (t.tx.bitIdx = 0 ∧
      ((∃ a ts, s.env.turns = .cmd .txh 0b0011 a :: ts) ∨ ∃ ts, s.env.turns = .rstTx :: ts))

/-- R158: what starts and what ends a run. `TX_STATE` goes to `RUN` only by `TRANSMIT`, at bit 0, with a valid
BitSequence and an open Actuator; it goes to `IDLE` only by the `STEP` of the last bit, by `CANCEL`, or by `RST_TX`. -/
def Obligations.RunStartsAndEndsOnlySo : Prop :=
  ∀ s t, step s = .next t →
    (s.tx.txState = .idle → t.tx.txState = .run →
      (∃ a ts, s.env.turns = .cmd .txh 0b0011 a :: ts) ∧ t.tx.bitIdx = 0 ∧
        s.tx.bitsValid = true ∧ s.tx.actState = .opened) ∧
    (s.tx.txState = .run → t.tx.txState = .idle →
      ((s.env.turns = [] ∨ ∃ ts, s.env.turns = .sched :: ts) ∧ s.tx.bitIdx + 1 = s.tx.nbits ∧
        t.tx.txStatus = .done ∧ t.tx.bitIdx = s.tx.nbits) ∨
      ((∃ a ts, s.env.turns = .cmd .can 0b0100 a :: ts) ∧ t.tx.txStatus = .cancelled ∧
        t.tx.bitIdx = s.tx.bitIdx) ∨
      ∃ ts, s.env.turns = .rstTx :: ts)

/-- R80, R299: `PAY`, `BITS`, their lengths and the two durations do not change while a run goes on, whatever the
agents issue (`RST_TX` ends the run). -/
def Obligations.RunSeesOneBitSequence : Prop :=
  ∀ s t, step s = .next t → s.tx.txState = .run → (∀ ts, s.env.turns ≠ .rstTx :: ts) →
    t.tx.pay = s.tx.pay ∧ t.tx.paylen = s.tx.paylen ∧ t.tx.bits = s.tx.bits ∧ t.tx.nbits = s.tx.nbits ∧
      t.tx.txT = s.tx.txT ∧ t.tx.txG = s.tx.txG

/-- R41: the block only appends to `TXEV`, at most one event a transition; only `RST_TX` empties it (R282). -/
def Obligations.EventStreamOnlyGrows : Prop :=
  ∀ s t, step s = .next t → (∀ ts, s.env.turns ≠ .rstTx :: ts) →
    ∃ evs, t.tx.txEv = s.tx.txEv ++ evs ∧ evs.length ≤ 1

/-- R156, R25: after a cancelled run nothing resumes. With the BitSequence discarded, no step begins a run or schedules
a bit until an `ENCODE` is issued: but for `RST_TX`, all that a step adds to `TXEV` is an opening or a shutdown. -/
def Obligations.NoRunWithoutNewEncode : Prop :=
  (∀ s t, s.tx.txState = .run → exec .cancel s = .next t → t.tx.txState = .idle ∧ t.tx.bitsValid = false) ∧
  (∀ s t, step s = .next t → s.tx.txState = .idle → s.tx.bitsValid = false →
    (∀ a ts, s.env.turns ≠ .cmd .txh 0b0001 a :: ts) →
    t.tx.txState = .idle ∧ t.tx.bitsValid = false ∧ (t.tx.bitIdx = s.tx.bitIdx ∨ t.tx.bitIdx = 0) ∧
      ((∀ ts, s.env.turns ≠ .rstTx :: ts) →
        ∃ evs, t.tx.txEv = s.tx.txEv ++ evs ∧ ∀ ev ∈ evs, ev = .shutdown ∨ ∃ r, ev = .init r) ∧
      (∀ ts, s.env.turns = .rstTx :: ts → t.tx.txEv = []))

/-- R27, R262: what the block calls on the Actuator in one step: `initialize()` only while `CLOSED`; `pulse` and
`shutdown` only with the handle it holds, `pulse` only during a run and with `T` as its timeout (R95). -/
def Obligations.ActuatorCallsCarryTheHandle : Prop :=
  ∀ s t, TxInv Config.params s.tx → step s = .next t →
    ∃ cs, t.env.actCalls = s.env.actCalls ++ cs ∧ cs.length ≤ 1 ∧ ∀ c ∈ cs,
      (c = .opening ∧ s.tx.actState = .closed) ∨
      (∃ h, s.tx.actHandle = some h ∧ c = .pulse (some h) s.tx.txT ∧ s.tx.txState = .run) ∨
      (∃ h, s.tx.actHandle = some h ∧ c = .shutdown (some h) ∧ t.tx.actState = .closed)

/-- R154: the event stream of a complete run. From an accepted `TRANSMIT`, over any interleaving in which no `CANCEL`
and no `RST_TX` is taken before the last `STEP`, the run appends exactly the events of its bits, and ends so. The
interleaving is the model's list of turns (log 1); the RX invariant keeps the ring's turns from stopping (log 14). -/
def Obligations.RunEmitsItsEventStream : Prop :=
  ∀ (s₀ s : State) (T G : Nat) (vs rest : List Turn),
    Sound s₀ → s₀.tx.txState = .idle → s₀.tx.bitsValid = true → s₀.tx.actState = .opened →
    exec (.transmit T G) s₀ = .next s →
    s.env.turns = vs ++ .sched :: rest → vs.count .sched + 1 = s₀.tx.nbits →
    (∀ u ∈ vs, u ≠ .rstTx ∧ ∀ op a, u ≠ .cmd .can op a) →
    ∃ t rs, Host.Core.run Sys2Proof.core (vs.length + 1) s = .next t ∧
      rs.length = ones s₀.tx.bits ∧
      t.tx.txEv = s₀.tx.txEv ++ runEvents T G s₀.tx.bits rs 0 ∧
      t.tx.bitIdx = s₀.tx.nbits ∧
      t.tx.txTime = ones s₀.tx.bits * T + zeros s₀.tx.bits * G ∧
      t.tx.failCnt = failures rs ∧
      t.tx.txState = .idle ∧ t.tx.txStatus = .done ∧ t.tx.bitsValid = false ∧ t.tx.actState = .opened ∧
      t.env.turns = rest

/-- R104, R144: `SEND` needs `PL + 8 * PAYLEN` scheduler steps and then the run has ended `DONE`, with the scheduled
time of its bits. -/
def Obligations.SendCompletes : Prop :=
  ∀ (payload : List Byte) (T G : Nat) (s : State),
    Sound s → s.tx.txState = .idle → s.tx.actState = .opened →
    ∃ t, send (13 + 8 * payload.length) payload T G s = some t ∧
      endedComplete t.tx = true ∧ t.tx.bitIdx = 13 + 8 * payload.length ∧
      t.tx.txTime = ones (encodePayload Config.preamble payload) * T +
        zeros (encodePayload Config.preamble payload) * G ∧
      t.env.turns = s.env.turns

/-- R252(a), R252(b), R252(d): a `STEP` and a `CANCEL` of one clock cycle, in the order fixed for implementations: the
`STEP` completes first; if it was the last, the run ends `DONE` and the `CANCEL` only shuts the Actuator down; if not,
the run ends `CANCELLED` with that bit scheduled. -/
def Obligations.StepBeforeCancelInOneCycle : Prop :=
  ∀ (s : State) (a : Operands), TxInv Config.params s.tx → s.tx.txState = .run →
    s.env.turns = cycleOrder [.cmd .can 0b0100 a, .sched] →
    ∃ u t, step s = .next u ∧ step u = .next t ∧
      t.tx.txState = .idle ∧ t.tx.actState = .closed ∧ t.tx.actHandle = none ∧
      t.tx.bitIdx = s.tx.bitIdx + 1 ∧ t.tx.failCnt = u.tx.failCnt ∧
      t.tx.txStatus = (if s.tx.bitIdx + 1 = s.tx.nbits then TxStatus.done else TxStatus.cancelled)

/-! ### The ring buffer -/

/-- R181: `RB_INIT K` whole. -/
def Obligations.RbInitOperation : Prop :=
  (∀ a, decode (.cmd4 .rxh 0b1000 a) = .ok (.rbInit a.k)) ∧
  (∀ k s, s.rx.rbState = .built → exec (.rbInit k) s = .next (s.respond .rxh ⟨.state, .none, .none⟩)) ∧
  (∀ k s, s.rx.rbState = .unbuilt → k < 2 →
    exec (.rbInit k) s = .next (s.respond .rxh ⟨.param, .none, .none⟩)) ∧
  (∀ k s, s.rx.rbState = .unbuilt → 2 ≤ k →
    exec (.rbInit k) s = .next (State.respond
      { s with rx := {
          rbState := .built, rbK := k, slots := List.replicate k ⟨false, none⟩, rbWr := 0, rbRd := 0,
          rbDone := false, rbWseq := [], rbRseq := [] } }
      .rxh ⟨.ok, .none, .none⟩))

/-- R183: `RB_WRITE d` whole. A cursor that names no slot stops (log 14). -/
def Obligations.RbWriteOperation : Prop :=
  (∀ a, decode (.cmd4 .prd 0b1001 a) = .ok (.rbWrite a.d)) ∧
  (∀ d s, (s.rx.rbState = .unbuilt ∨ s.rx.rbDone = true) →
    exec (.rbWrite d) s = .next (s.respond .prd ⟨.state, .none, .none⟩)) ∧
  (∀ d s c, s.rx.rbState = .built → s.rx.rbDone = false → s.rx.slots[s.rx.rbWr]? = some c → c.filled = true →
    exec (.rbWrite d) s = .next (s.respond .prd ⟨.wait, .none, .none⟩)) ∧
  (∀ d s c, s.rx.rbState = .built → s.rx.rbDone = false → s.rx.slots[s.rx.rbWr]? = some c → c.filled = false →
    exec (.rbWrite d) s = .next (State.respond
      { s with rx := { s.rx with
          slots := s.rx.slots.set s.rx.rbWr ⟨true, some d⟩, rbWr := (s.rx.rbWr + 1) % s.rx.rbK,
          rbWseq := s.rx.rbWseq ++ [d] } }
      .prd ⟨.ok, .none, .none⟩))

/-- R185: `RB_READ` whole. -/
def Obligations.RbReadOperation : Prop :=
  (∀ a, decode (.cmd4 .cns 0b1010 a) = .ok .rbRead) ∧
  (∀ s, s.rx.rbState = .unbuilt → exec .rbRead s = .next (s.respond .cns ⟨.state, .none, .none⟩)) ∧
  (∀ s c, s.rx.rbState = .built → s.rx.slots[s.rx.rbRd]? = some c → c.filled = false →
    exec .rbRead s = .next (s.respond .cns ⟨.wait, .none, .none⟩)) ∧
  (∀ s d, s.rx.rbState = .built → s.rx.slots[s.rx.rbRd]? = some ⟨true, some d⟩ →
    exec .rbRead s = .next (State.respond
      { s with rx := { s.rx with
          slots := s.rx.slots.set s.rx.rbRd ⟨false, none⟩, rbRd := (s.rx.rbRd + 1) % s.rx.rbK,
          rbRseq := s.rx.rbRseq ++ [d] } }
      .cns ⟨.ok, .none, .block d⟩))

/-- R187: `RB_SET_DONE` whole. -/
def Obligations.RbSetDoneOperation : Prop :=
  (∀ a, decode (.cmd4 .prd 0b1011 a) = .ok .rbSetDone) ∧
  (∀ s, s.rx.rbState = .unbuilt → exec .rbSetDone s = .next (s.respond .prd ⟨.state, .none, .none⟩)) ∧
  (∀ s, s.rx.rbState = .built →
    exec .rbSetDone s =
      .next (State.respond { s with rx := { s.rx with rbDone := true } } .prd ⟨.ok, .none, .none⟩))

/-- R188: `RB_GET_DONE` whole. -/
def Obligations.RbGetDoneOperation : Prop :=
  (∀ a, decode (.cmd4 .cns 0b1100 a) = .ok .rbGetDone) ∧
  (∀ s, s.rx.rbState = .unbuilt → exec .rbGetDone s = .next (s.respond .cns ⟨.state, .none, .none⟩)) ∧
  (∀ s, s.rx.rbState = .built →
    exec .rbGetDone s = .next (s.respond .cns ⟨.ok, .none, .flag s.rx.rbDone⟩))

/-- R189: `RB_FREE` whole. -/
def Obligations.RbFreeOperation : Prop :=
  (∀ a, decode (.cmd4 .rxh 0b1101 a) = .ok .rbFree) ∧
  (∀ s, s.rx.rbState = .unbuilt → exec .rbFree s = .next (s.respond .rxh ⟨.state, .none, .none⟩)) ∧
  (∀ s, s.rx.rbState = .built →
    exec .rbFree s = .next (State.respond
      { s with rx := {
          rbState := .unbuilt, rbK := 0, slots := [], rbWr := 0, rbRd := 0, rbDone := false,
          rbWseq := [], rbRseq := [] } }
      .rxh ⟨.ok, .none, .none⟩))

/-- R53 in its own words and as a queue are the same invariant. -/
def Obligations.RingInvariantIsAQueue : Prop :=
  ∀ rx, RingInv rx ↔ RingView rx

/-- R184: full, and what `RB_WRITE` then answers; and conversely. -/
def Obligations.FullRingMakesWritesWait : Prop :=
  ∀ (s : State) (d : Block), RingInv s.rx → s.rx.rbState = .built → s.rx.rbDone = false →
    (occ s.rx = s.rx.rbK → s.rx.rbWr = s.rx.rbRd ∧ markerAt s.rx s.rx.rbWr = some true ∧
      exec (.rbWrite d) s = .next (s.respond .prd ⟨.wait, .none, .none⟩)) ∧
    (occ s.rx < s.rx.rbK → markerAt s.rx s.rx.rbWr = some false ∧
      ∃ t, exec (.rbWrite d) s = .next t ∧ t.env.responses = s.env.responses ++ [(.prd, ⟨.ok, .none, .none⟩)] ∧
        occ t.rx = occ s.rx + 1 ∧ t.rx.rbWseq = s.rx.rbWseq ++ [d])

/-- R186: empty, and what `RB_READ` then answers; and conversely, with the value FIFO order gives. -/
def Obligations.EmptyRingMakesReadsWait : Prop :=
  ∀ s : State, RingInv s.rx → s.rx.rbState = .built →
    (occ s.rx = 0 → s.rx.rbWr = s.rx.rbRd ∧ markerAt s.rx s.rx.rbRd = some false ∧
      exec .rbRead s = .next (s.respond .cns ⟨.wait, .none, .none⟩)) ∧
    (0 < occ s.rx → markerAt s.rx s.rx.rbRd = some true ∧
      ∃ t d, exec .rbRead s = .next t ∧ s.rx.rbWseq[s.rx.rbRseq.length]? = some d ∧
        t.env.responses = s.env.responses ++ [(.cns, ⟨.ok, .none, .block d⟩)] ∧
        occ t.rx + 1 = occ s.rx ∧ t.rx.rbRseq = s.rx.rbRseq ++ [d])

/-- R190: the state machine of one slot, for every step that is no construction, teardown or `RST_RX`: EMPTY becomes
FILLED only by an `RB_WRITE` at `RB_WR`, FILLED becomes EMPTY only by an `RB_READ` at `RB_RD` that returns its Block,
a slot whose marker does not change keeps its contents, a Block is returned only from a slot that goes from FILLED to
EMPTY, and no slot appears or vanishes: `RB_STATE`, `RB_K` and the number of slots stay (R39). -/
def Obligations.SlotStateMachine : Prop :=
  ∀ s t i, step s = .next t → (∀ u us, s.env.turns = u :: us → keepsRing u = true) →
    (t.rx.rbState = s.rx.rbState ∧ t.rx.rbK = s.rx.rbK ∧ t.rx.slots.length = s.rx.slots.length) ∧
    (markerAt s.rx i = some false → markerAt t.rx i = some true →
      i = s.rx.rbWr ∧ ∃ a ts, s.env.turns = .cmd .prd 0b1001 a :: ts ∧ dataAt t.rx i = some a.d) ∧
    (markerAt s.rx i = some true → markerAt t.rx i = some false →
      i = s.rx.rbRd ∧ dataAt t.rx i = none ∧ ∃ a ts d, s.env.turns = .cmd .cns 0b1010 a :: ts ∧
        dataAt s.rx i = some d ∧ t.env.responses = s.env.responses ++ [(.cns, ⟨.ok, .none, .block d⟩)]) ∧
    (markerAt s.rx i = markerAt t.rx i → slotRead t.rx i = slotRead s.rx i) ∧
    (∀ d, t.env.responses = s.env.responses ++ [(.cns, ⟨.ok, .none, .block d⟩)] →
      dataAt s.rx s.rx.rbRd = some d ∧ markerAt s.rx s.rx.rbRd = some true ∧ markerAt t.rx s.rx.rbRd = some false)

/-- R76, R200: at every point of every run from a state that keeps the invariant, what was read is a prefix of what was
written; with the ring empty the two are equal. -/
def Obligations.RingIsFifo : Prop :=
  ∀ n s t, Sound s → Host.Core.run Sys2Proof.core n s = .next t →
    t.rx.rbRseq <+: t.rx.rbWseq ∧ (occ t.rx = 0 → t.rx.rbRseq = t.rx.rbWseq)

/-- R201: after as many reads as writes the ring differs from a fresh one only in the common value of the cursors, the
flag and the ghost histories. -/
def Obligations.EmptiedRingIsFresh : Prop :=
  ∀ rx, RingInv rx → rx.rbState = .built → rx.rbRseq.length = rx.rbWseq.length →
    rx.rbWr = rx.rbRd ∧ rx.slots = List.replicate rx.rbK ⟨false, none⟩ ∧
    ∃ c, rx = { buildRing rx.rbK with
      rbWr := c, rbRd := c, rbDone := rx.rbDone, rbWseq := rx.rbWseq, rbRseq := rx.rbRseq }

/-- R202: end-of-stream draining: with the flag set, `M` written and `M - 2` read, two reads return the last two items
and the third waits; the consumer that has seen the flag takes that as the end of the stream. -/
def Obligations.LastTwoItemsAreDrained : Prop :=
  ∀ (s : State) (M : Nat), RingInv s.rx → s.rx.rbState = .built → s.rx.rbDone = true →
    s.rx.rbWseq.length = M → 2 ≤ M → s.rx.rbRseq.length = M - 2 →
    ∃ t₁ t₂ t₃ d₁ d₂, exec .rbRead s = .next t₁ ∧ exec .rbRead t₁ = .next t₂ ∧ exec .rbRead t₂ = .next t₃ ∧
      s.rx.rbWseq[M - 2]? = some d₁ ∧ s.rx.rbWseq[M - 1]? = some d₂ ∧
      t₃.env.responses = s.env.responses ++
        [(.cns, ⟨.ok, .none, .block d₁⟩), (.cns, ⟨.ok, .none, .block d₂⟩), (.cns, ⟨.wait, .none, .none⟩)] ∧
      readReact .lookAgain ⟨.wait, .none, .none⟩ = .answer .endOfStream

/-- R187, R203: once set, the flag stays set and the stream is closed: until the ring is torn down, no step writes,
moves the write cursor or clears the flag, and an empty ring stays as it is. -/
def Obligations.CompletionIsFinal : Prop :=
  ∀ s t, step s = .next t → (∀ u us, s.env.turns = u :: us → keepsRing u = true) →
    s.rx.rbState = .built → s.rx.rbDone = true →
    t.rx.rbState = .built ∧ t.rx.rbDone = true ∧ t.rx.rbWr = s.rx.rbWr ∧ t.rx.rbWseq = s.rx.rbWseq ∧
      (RingInv s.rx → occ s.rx = 0 → t.rx = s.rx)

/-- R104, R203, R227: `DRAIN` after completion returns every block still in the ring, in order, and then end of
stream: nothing is lost and no empty read is data. -/
def Obligations.DrainReturnsEverything : Prop :=
  ∀ s : State, Sound s → s.rx.rbState = .built → s.rx.rbDone = true →
    ∃ t, drain (occ s.rx + 1) s = some (t, pendingBlocks s.rx, .endOfStream) ∧
      t.rx.rbRseq = s.rx.rbWseq ∧ occ t.rx = 0 ∧ t.env.turns = s.env.turns

/-- R227: the read protocol. The consumer asks for the flag only after an empty read, looks again only after it saw the
flag set, and answers end of stream only when that second look found the slot empty; then every block written has been
read. -/
def Obligations.EndOfStreamMeansAllRead : Prop :=
  (∀ p r, readReact p r = .answer .endOfStream → p = .lookAgain ∧ (r.st = .ok → ∀ d, r.v ≠ .block d)) ∧
  (∀ p r, readReact p r = .go .lookAgain → p = .check ∧ r.st = .ok ∧ r.v = .flag true) ∧
  (∀ p r, readReact p r = .go .check → p = .look ∧ (r.st = .ok → ∀ d, r.v ≠ .block d)) ∧
  (∀ s t, Sound s → s.rx.rbState = .built → readTurn .lookAgain s = some (t, .answer .endOfStream) →
    occ s.rx = 0 ∧ s.rx.rbRseq = s.rx.rbWseq ∧ t.rx = s.rx)

/-- R62: the ring never reads inside a Block. For any two types of Blocks (the parameter `Block` of R10), with every
Block renamed by any function from one to the other, every ring operation gives the renamed result; and so does `exec`
at the machine's tokens (log 9). -/
def Obligations.RingIsBlindToBlocks : Prop :=
  (∀ (α β : Type) (f : α → β) (rx : RxStateOf α),
    (∀ k, ringInit k (rx.rename f) = (ringInit k rx).rename f) ∧
    (∀ d, ringWrite (f d) (rx.rename f) = (ringWrite d rx).rename f) ∧
    ringRead (rx.rename f) = (ringRead rx).rename f ∧
    ringSetDone (rx.rename f) = (ringSetDone rx).rename f ∧
    ringGetDone (rx.rename f) = (ringGetDone rx).rename f ∧
    ringFree (rx.rename f) = (ringFree rx).rename f) ∧
  ∀ (f : Block → Block) i s, isTxOp i = false →
    (∀ t p r, exec i s = .next t → i.port = some p → t.env.responses = s.env.responses ++ [(p, r)] →
      exec (renameInstr f i) (s.withRx (s.rx.rename f)) =
        .next ((s.withRx (t.rx.rename f)).respond p (renameResponse f r))) ∧
    (∀ e, exec i s = .fault e → exec (renameInstr f i) (s.withRx (s.rx.rename f)) = .fault e)

/-- R46: no operation's result depends on the ghost histories: with the histories replaced, every operation gives the
same response and the same elements but for the histories. -/
def Obligations.GhostHistoriesAreInert : Prop :=
  ∀ i s t w r, exec i s = .next t →
    ∃ u, exec i (s.withRx { s.rx with rbWseq := w, rbRseq := r }) = .next u ∧
      u.tx = t.tx ∧ u.env = t.env ∧ u.rx.withoutGhost = t.rx.withoutGhost

/-! ### Reset, invariants, safety -/

/-- R51, R280: the state after reset; power-on applies both resets; each reset input is one transition that puts every
element of its own path at its reset value and touches nothing else, whatever the state. -/
def Obligations.ResetValuesAndInputs : Prop :=
  State.reset.tx =
    { pay := [], paylen := 0, bits := [], nbits := 0, bitsValid := false, actState := .closed, actHandle := none,
      txState := .idle, txStatus := .none, txT := 0, txG := 0, bitIdx := 0, txTime := 0, failCnt := 0,
      lastErr := .none, fatalErr := .none, txEv := [] } ∧
  State.reset.rx =
    { rbState := .unbuilt, rbK := 0, slots := [], rbWr := 0, rbRd := 0, rbDone := false, rbWseq := [], rbRseq := [] } ∧
  (∀ s, (powerOn s).tx = State.reset.tx ∧ (powerOn s).rx = State.reset.rx) ∧
  (∀ s ts, s.env.turns = .rstTx :: ts → step s = .next { s.withTurns ts with tx := State.reset.tx }) ∧
  (∀ s ts, s.env.turns = .rstRx :: ts → step s = .next { s.withTurns ts with rx := State.reset.rx })

/-- R52, R53: the invariants hold after reset. -/
def Obligations.InvariantHoldsAtReset : Prop :=
  Sound State.reset

/-- R52: the TX invariants hold after reset and are kept by every step, for the values of this hardware and for any
other `PREAMBLE` and `PAYLOAD_MAX` (R10). -/
def Obligations.StepKeepsTxInvariant : Prop :=
  (∀ P, TxInv P State.reset.tx) ∧
  (∀ P s t, TxInv P s.tx → nextTransition P s = .next t → TxInv P t.tx) ∧
  ∀ s t, TxInv Config.params s.tx → step s = .next t → TxInv Config.params t.tx

/-- R53: the RX invariants are kept by every step: an unbuilt ring is at its reset values, and a built one keeps
R53(a) to R53(f). -/
def Obligations.StepKeepsRxInvariant : Prop :=
  ∀ s t, RxInv s.rx → step s = .next t → RxInv t.rx

/-- R68: no access goes out of range: from a state that keeps the invariants every step answers a next state, never a
fault or a refusal, and so does every run. -/
def Obligations.SoundStatesNeverStop : Prop :=
  (∀ s, Sound s → ∃ t, step s = .next t) ∧
  (∀ n s, Sound s → ∃ t, Host.Core.run Sys2Proof.core n s = .next t ∧ Sound t)

/-- R52(a), R40: the lengths the block states agree with its index spaces, and every step keeps that (log 5). -/
def Obligations.StepKeepsMemoryForm : Prop :=
  ∀ s t, Memory.wf s → step s = .next t → Memory.wf t

/-- R225, R226: for blocks of positive duration the timestamps of what the consumer outputs increase strictly across
block boundaries, and stay between the first offset and the sum of the durations. The blocks of a session are such
blocks, with no further premise, and the producer writes no others. Outside the block (R8; log 21, 22); that the rate is
positive is read from R226 (log 30). -/
def Obligations.TimelineIncreases : Prop :=
  (∀ (bs : List SampleBlock) (offset : ℝ), (∀ b ∈ bs, 0 < b.duration) →
    (envelope offset bs).map (·.1) = timeline offset bs ∧
    (timeline offset bs).Pairwise (· < ·) ∧
    ∀ x ∈ timeline offset bs, offset ≤ x ∧ x < offset + (bs.map (·.duration)).sum) ∧
  (∀ (c : SourceParams) (bs : List SampleBlock) (offset : ℝ), (∀ b ∈ bs, b.OfSession c) →
    (∀ b ∈ bs, 0 < b.duration) ∧
    (timeline offset bs).Pairwise (· < ·) ∧
    ∀ x ∈ timeline offset bs, offset ≤ x ∧ x < offset + bs.length * blockDuration c) ∧
  (∀ (c : SourceParams) policy name e p s t h b calls,
    producerTurn c policy name e p s = some (t, .write h b, calls) →
    (∀ k b', p = .write k b' → b'.OfSession c) → b.OfSession c)

/-! ### The agents around the block (R8; log 21) -/

/-- R220: the TX host. In either order of `ENCODE` and `ACT_INIT`, from an idle state with the Actuator `CLOSED`: if
`initialize()` succeeds the host ends having read `DONE` after `PL + 8 * PAYLEN` scheduler steps; if it fails the host
stops there with the kind, and nothing is transmitted. And the two operations leave the same elements in either order. -/
def Obligations.TxHostTransmitsOrStops : Prop :=
  (∀ (encodeFirst : Bool) (payload : List Byte) (T G : Nat) (s : State) (h : Handle),
    Sound s → s.tx.txState = .idle → s.tx.actState = .closed → s.env.nextInit = .ok h →
    ∃ t, hostRun (17 + 8 * payload.length) (.issuing (hostScript encodeFirst payload T G)) s =
        some (t, .stopped (.ended .done)) ∧
      endedComplete t.tx = true ∧ t.tx.actHandle = some h ∧ t.tx.bitIdx = 13 + 8 * payload.length ∧
      t.tx.txTime = ones (encodePayload Config.preamble payload) * T +
        zeros (encodePayload Config.preamble payload) * G) ∧
  (∀ (encodeFirst : Bool) (payload : List Byte) (T G n : Nat) (s : State) (k : InitError),
    s.tx.txState = .idle → s.tx.actState = .closed → s.env.nextInit = .err k →
    ∃ t, hostRun (n + 2) (.issuing (hostScript encodeFirst payload T G)) s =
        some (t, .stopped (.failed .actInit .deverr k.kind)) ∧
      t.tx.txState = .idle ∧ t.tx.txStatus = .aborted ∧ t.tx.txEv = s.tx.txEv ++ [.init (.err k)]) ∧
  (∀ payload s u t u' t', exec (.encode payload) s = .next u → exec .actInit u = .next t →
    exec .actInit s = .next u' → exec (.encode payload) u' = .next t' →
    t.tx = t'.tx ∧ t.env.actCalls = t'.env.actCalls ∧ t.env.draws = t'.env.draws)

/-- R225: the consumer, which starts at offset 0. Each of its turns outputs the (timestamp, magnitude) pairs of exactly
the Blocks it reads in that turn, from its offset on, and advances the offset by their durations, whatever the other
agents did before; and over a ring that is complete it outputs the envelope of everything still unread and stops.
`value` is the SampleBlock each token stands for (log 9). -/
def Obligations.ConsumerOutputsTheEnvelope : Prop :=
  consumerStart = .reading 0 .look ∧
  (∀ (value : Block → SampleBlock) offset p s t q out,
    consumerTurn value (.reading offset p) s = some (t, q, out) →
    ∃ ds, t.rx.rbRseq = s.rx.rbRseq ++ ds ∧ out = envelope offset (ds.map value) ∧
      ∀ offset' p', q = .reading offset' p' → offset' = offset + ((ds.map value).map (·.duration)).sum) ∧
  (∀ (value : Block → SampleBlock) s, Sound s → s.rx.rbState = .built → s.rx.rbDone = true →
    ∃ t, consumerRun value (occ s.rx + 3) consumerStart s =
        some (t, .stopped .endOfStream, envelope 0 ((pendingBlocks s.rx).map value)) ∧
      t.rx.rbRseq = s.rx.rbWseq ∧ occ t.rx = 0)

/-- R228: waiting, with weak fairness as a premise. A producer that offers a Block to a full ring is answered if the
consumer keeps reading; a consumer in `READ_WAIT` is answered once a slot is filled or the flag is set; and one whose
producer never sets the flag is never answered end of stream. For every execution that neither builds nor tears down
the ring. -/
def Obligations.WaitingAgentsProceed : Prop :=
  (∀ u σ d, IsExecution u σ → Sound (σ 0) → (σ 0).rx.rbState = .built → (σ 0).rx.rbDone = false →
    (∀ n, keepsRing (u n) = true) → (∀ n, onPort .prd (u n) → offers d (u n)) →
    WeaklyFair u (fun n => (σ n).rx.rbWseq = (σ 0).rx.rbWseq) (offers d) →
    (∀ n, ∃ m, n ≤ m ∧ isCommand .rbRead (u m)) →
    ∃ n, offers d (u n) ∧ (σ (n + 1)).rx.rbWseq = (σ 0).rx.rbWseq ++ [d]) ∧
  (∀ u σ q, IsExecution u σ → Sound (σ 0) → (σ 0).rx.rbState = .built → (∀ n, keepsRing (u n) = true) →
    FollowsReadWait u σ q → q 0 = .go .look → WeaklyFair u (fun n => ∃ p, q n = .go p) (onPort .cns) →
    (∃ n, 0 < occ (σ n).rx ∨ (σ n).rx.rbDone = true) →
    ∃ n r, q n = .answer r ∧ ∀ st, r ≠ .stopped st) ∧
  (∀ u σ q, IsExecution u σ → (σ 0).rx.rbState = .built → (σ 0).rx.rbDone = false →
    (∀ n, keepsRing (u n) = true) → (∀ n, ¬isCommand .rbSetDone (u n)) →
    FollowsReadWait u σ q → q 0 = .go .look → ∀ n, q n ≠ .answer .endOfStream)
end

