-- ==== Sys2Proof/Laws/Environment.lean ====
section
/-! SUPPORT. What one turn of the producer can do (R223, R224), and the small lemmas of the environment's formulas. -/

namespace Sys2Proof.Machine

variable {c : SourceParams} {policy : ReadFailPolicy} {name : SampleBlock → Block} {e : ProducerDraw c}
variable {p q : ProducerPhase} {s t : State} {calls : List SourceCall}

/-- The blocks a turn can leave to be written are those of the session: `sample_count` samples, and the duration
computed from the parameters (R222, R223). -/
theorem timedBlock_ofSession (c : SourceParams) (samples : Vector ℂ c.sampleCount) (wallClock : ℝ) :
    (timedBlock c (blockRead c samples wallClock)).OfSession c := ⟨by simp [timedBlock, blockRead], rfl⟩

/-- The rate R222 divides by is not 0 (R239, U31). -/
theorem SourceParams.rate_ne_zero (c : SourceParams) : c.sampleRate ≠ 0 := c.rate_pos.ne'

/-- Every duration of a session is positive (R226). -/
theorem blockDuration_pos (c : SourceParams) : 0 < blockDuration c := by
  have hn : (0 : ℝ) < c.sampleCount := Nat.cast_pos.mpr (Nat.pos_of_ne_zero c.count_ne_zero)
  have hr := c.rate_pos
  unfold blockDuration
  positivity

/-- What one turn of the producer can be (R223, R224). -/
theorem producerTurn_cases (h : producerTurn c policy name e p s = some (t, q, calls)) :
    (p = .configure ∧ t = s ∧ calls = [.configure c.sampleRate c.centerFrequency] ∧
      ((∃ k, e.configured = .ok k ∧ q = .loop k) ∨
       (e.configured = .configError ∧ q = .stopped .configError))) ∨
    (∃ k, p = .loop k ∧ e.stop = true ∧ t = s ∧ calls = [] ∧ q = .finish) ∨
    (∃ k, p = .loop k ∧ e.stop = false ∧ t = s ∧ calls = [.readBlock k c.sampleCount] ∧
      ((∃ b, q = .write k b ∧ b.OfSession c) ∨ (e.reading = .readError ∧ q = afterReadError policy k))) ∨
    (∃ k b r, p = .write k b ∧ issue (.rbWrite (name b)) s = some (t, r) ∧ calls = [] ∧
      q = if r.st = .wait then .write k b else .loop k) ∨
    (∃ r, p = .finish ∧ issue .rbSetDone s = some (t, r) ∧ calls = [] ∧ q = .stopped .none) ∨
    (∃ ek, p = .stopped ek ∧ t = s ∧ calls = [] ∧ q = .stopped ek) := by
  cases p with
  | configure =>
    simp only [producerTurn] at h
    split at h <;> cases h
    · exact .inl ⟨rfl, rfl, rfl, .inl ⟨_, ‹_›, rfl⟩⟩
    · rename_i he
      exact .inl ⟨rfl, rfl, rfl, .inr ⟨he, by rw [he]; rfl⟩⟩
  | loop k =>
    simp only [producerTurn] at h
    split at h
    · cases h
      exact .inr (.inl ⟨k, rfl, ‹_›, rfl, rfl, rfl⟩)
    · have hs : e.stop = false := by simpa using ‹¬e.stop = true›
      split at h <;> cases h
      · exact .inr (.inr (.inl ⟨k, rfl, hs, rfl, rfl, .inl ⟨_, rfl, timedBlock_ofSession c _ _⟩⟩))
      · exact .inr (.inr (.inl ⟨k, rfl, hs, rfl, rfl, .inr ⟨‹_›, rfl⟩⟩))
  | write k b =>
    simp only [producerTurn, Option.map_eq_some_iff] at h
    obtain ⟨⟨u, r⟩, hi, hx⟩ := h
    cases hx
    exact .inr (.inr (.inr (.inl ⟨k, b, r, rfl, hi, rfl, rfl⟩)))
  | finish =>
    simp only [producerTurn, Option.map_eq_some_iff] at h
    obtain ⟨⟨u, r⟩, hi, hx⟩ := h
    cases hx
    exact .inr (.inr (.inr (.inr (.inl ⟨r, rfl, hi, rfl, rfl⟩))))
  | stopped ek =>
    cases h
    exact .inr (.inr (.inr (.inr (.inr ⟨ek, rfl, rfl, rfl, rfl⟩))))

/-- The length R225 divides by is not 0 (R239, U31). -/
theorem SampleBlock.length_ne_zero (b : SampleBlock) : (b.samples.length : ℝ) ≠ 0 := by
  simp [b.samples_ne_nil]

@[simp] theorem blockTimes_length (offset : ℝ) (b : SampleBlock) :
    (blockTimes offset b).length = b.samples.length := by simp [blockTimes]

@[simp] theorem blockOutput_length (offset : ℝ) (b : SampleBlock) :
    (blockOutput offset b).length = b.samples.length := by simp [blockOutput]

@[simp] theorem envelope_nil (offset : ℝ) : envelope offset [] = [] := rfl

@[simp] theorem envelope_cons (offset : ℝ) (b : SampleBlock) (bs : List SampleBlock) :
    envelope offset (b :: bs) = blockOutput offset b ++ envelope (offset + b.duration) bs := rfl

@[simp] theorem timeline_nil (offset : ℝ) : timeline offset [] = [] := rfl

@[simp] theorem timeline_cons (offset : ℝ) (b : SampleBlock) (bs : List SampleBlock) :
    timeline offset (b :: bs) = blockTimes offset b ++ timeline (offset + b.duration) bs := rfl

@[simp] theorem inTicks_one (n : Nat) : inTicks 1 n = n := by simp [inTicks]

end Sys2Proof.Machine
end

