-- ==== Sys2Proof/Laws/State.lean ====
section
/-! SUPPORT. One lemma per field per update of State, all true by rfl, so that no proof unfolds a record update. -/

namespace Sys2Proof.Machine

variable (s : State) (tx : TxState) (rx : RxState) (e : Env)

@[simp] theorem State.withTx_tx : (s.withTx tx).tx = tx := rfl
@[simp] theorem State.withTx_rx : (s.withTx tx).rx = s.rx := rfl
@[simp] theorem State.withTx_env : (s.withTx tx).env = s.env := rfl

@[simp] theorem State.withRx_tx : (s.withRx rx).tx = s.tx := rfl
@[simp] theorem State.withRx_rx : (s.withRx rx).rx = rx := rfl
@[simp] theorem State.withRx_env : (s.withRx rx).env = s.env := rfl

@[simp] theorem State.withEnv_tx : (s.withEnv e).tx = s.tx := rfl
@[simp] theorem State.withEnv_rx : (s.withEnv e).rx = s.rx := rfl
@[simp] theorem State.withEnv_env : (s.withEnv e).env = e := rfl

@[simp] theorem State.withTurns_tx (ts : List Turn) : (s.withTurns ts).tx = s.tx := rfl
@[simp] theorem State.withTurns_rx (ts : List Turn) : (s.withTurns ts).rx = s.rx := rfl

@[simp] theorem State.withTurns_turns (ts : List Turn) : (s.withTurns ts).env.turns = ts := rfl
@[simp] theorem State.withTurns_initAnswers (ts : List Turn) : (s.withTurns ts).env.initAnswers = s.env.initAnswers := rfl
@[simp] theorem State.withTurns_pulseAnswers (ts : List Turn) : (s.withTurns ts).env.pulseAnswers = s.env.pulseAnswers := rfl
@[simp] theorem State.withTurns_draws (ts : List Turn) : (s.withTurns ts).env.draws = s.env.draws := rfl
@[simp] theorem State.withTurns_actCalls (ts : List Turn) : (s.withTurns ts).env.actCalls = s.env.actCalls := rfl
@[simp] theorem State.withTurns_responses (ts : List Turn) : (s.withTurns ts).env.responses = s.env.responses := rfl

@[simp] theorem State.respond_tx (p : Port) (r : Response) : (s.respond p r).tx = s.tx := rfl
@[simp] theorem State.respond_rx (p : Port) (r : Response) : (s.respond p r).rx = s.rx := rfl

@[simp] theorem State.respond_turns (p : Port) (r : Response) : (s.respond p r).env.turns = s.env.turns := rfl
@[simp] theorem State.respond_initAnswers (p : Port) (r : Response) : (s.respond p r).env.initAnswers = s.env.initAnswers := rfl
@[simp] theorem State.respond_pulseAnswers (p : Port) (r : Response) : (s.respond p r).env.pulseAnswers = s.env.pulseAnswers := rfl
@[simp] theorem State.respond_draws (p : Port) (r : Response) : (s.respond p r).env.draws = s.env.draws := rfl
@[simp] theorem State.respond_actCalls (p : Port) (r : Response) : (s.respond p r).env.actCalls = s.env.actCalls := rfl
@[simp] theorem State.respond_responses (p : Port) (r : Response) : (s.respond p r).env.responses = s.env.responses ++ [(p, r)] := rfl

@[simp] theorem TxState.emit_pay (ev : Event) : (tx.emit ev).pay = tx.pay := rfl
@[simp] theorem TxState.emit_paylen (ev : Event) : (tx.emit ev).paylen = tx.paylen := rfl
@[simp] theorem TxState.emit_bits (ev : Event) : (tx.emit ev).bits = tx.bits := rfl
@[simp] theorem TxState.emit_nbits (ev : Event) : (tx.emit ev).nbits = tx.nbits := rfl
@[simp] theorem TxState.emit_bitsValid (ev : Event) : (tx.emit ev).bitsValid = tx.bitsValid := rfl
@[simp] theorem TxState.emit_actState (ev : Event) : (tx.emit ev).actState = tx.actState := rfl
@[simp] theorem TxState.emit_actHandle (ev : Event) : (tx.emit ev).actHandle = tx.actHandle := rfl
@[simp] theorem TxState.emit_txState (ev : Event) : (tx.emit ev).txState = tx.txState := rfl
@[simp] theorem TxState.emit_txStatus (ev : Event) : (tx.emit ev).txStatus = tx.txStatus := rfl
@[simp] theorem TxState.emit_txT (ev : Event) : (tx.emit ev).txT = tx.txT := rfl
@[simp] theorem TxState.emit_txG (ev : Event) : (tx.emit ev).txG = tx.txG := rfl
@[simp] theorem TxState.emit_bitIdx (ev : Event) : (tx.emit ev).bitIdx = tx.bitIdx := rfl
@[simp] theorem TxState.emit_txTime (ev : Event) : (tx.emit ev).txTime = tx.txTime := rfl
@[simp] theorem TxState.emit_failCnt (ev : Event) : (tx.emit ev).failCnt = tx.failCnt := rfl
@[simp] theorem TxState.emit_lastErr (ev : Event) : (tx.emit ev).lastErr = tx.lastErr := rfl
@[simp] theorem TxState.emit_fatalErr (ev : Event) : (tx.emit ev).fatalErr = tx.fatalErr := rfl
@[simp] theorem TxState.emit_txEv (ev : Event) : (tx.emit ev).txEv = tx.txEv ++ [ev] := rfl

@[simp] theorem TxState.endRun_pay (st : TxStatus) : (tx.endRun st).pay = tx.pay := rfl
@[simp] theorem TxState.endRun_paylen (st : TxStatus) : (tx.endRun st).paylen = tx.paylen := rfl
@[simp] theorem TxState.endRun_bits (st : TxStatus) : (tx.endRun st).bits = tx.bits := rfl
@[simp] theorem TxState.endRun_nbits (st : TxStatus) : (tx.endRun st).nbits = tx.nbits := rfl
@[simp] theorem TxState.endRun_bitsValid (st : TxStatus) : (tx.endRun st).bitsValid = false := rfl
@[simp] theorem TxState.endRun_actState (st : TxStatus) : (tx.endRun st).actState = tx.actState := rfl
@[simp] theorem TxState.endRun_actHandle (st : TxStatus) : (tx.endRun st).actHandle = tx.actHandle := rfl
@[simp] theorem TxState.endRun_txState (st : TxStatus) : (tx.endRun st).txState = .idle := rfl
@[simp] theorem TxState.endRun_txStatus (st : TxStatus) : (tx.endRun st).txStatus = st := rfl
@[simp] theorem TxState.endRun_txT (st : TxStatus) : (tx.endRun st).txT = tx.txT := rfl
@[simp] theorem TxState.endRun_txG (st : TxStatus) : (tx.endRun st).txG = tx.txG := rfl
@[simp] theorem TxState.endRun_bitIdx (st : TxStatus) : (tx.endRun st).bitIdx = tx.bitIdx := rfl
@[simp] theorem TxState.endRun_txTime (st : TxStatus) : (tx.endRun st).txTime = tx.txTime := rfl
@[simp] theorem TxState.endRun_failCnt (st : TxStatus) : (tx.endRun st).failCnt = tx.failCnt := rfl
@[simp] theorem TxState.endRun_lastErr (st : TxStatus) : (tx.endRun st).lastErr = tx.lastErr := rfl
@[simp] theorem TxState.endRun_fatalErr (st : TxStatus) : (tx.endRun st).fatalErr = tx.fatalErr := rfl
@[simp] theorem TxState.endRun_txEv (st : TxStatus) : (tx.endRun st).txEv = tx.txEv := rfl

@[simp] theorem Env.call_turns (c : ActCall) : (e.call c).turns = e.turns := rfl
@[simp] theorem Env.call_initAnswers (c : ActCall) : (e.call c).initAnswers = e.initAnswers := rfl
@[simp] theorem Env.call_pulseAnswers (c : ActCall) : (e.call c).pulseAnswers = e.pulseAnswers := rfl
@[simp] theorem Env.call_draws (c : ActCall) : (e.call c).draws = e.draws := rfl
@[simp] theorem Env.call_actCalls (c : ActCall) : (e.call c).actCalls = e.actCalls ++ [c] := rfl
@[simp] theorem Env.call_responses (c : ActCall) : (e.call c).responses = e.responses := rfl

@[simp] theorem Env.callInit_turns : e.callInit.turns = e.turns := rfl
@[simp] theorem Env.callInit_initAnswers : e.callInit.initAnswers = e.initAnswers.tail := rfl
@[simp] theorem Env.callInit_pulseAnswers : e.callInit.pulseAnswers = e.pulseAnswers := rfl
@[simp] theorem Env.callInit_draws : e.callInit.draws = e.draws + 1 := rfl
@[simp] theorem Env.callInit_actCalls : e.callInit.actCalls = e.actCalls ++ [.opening] := rfl
@[simp] theorem Env.callInit_responses : e.callInit.responses = e.responses := rfl

@[simp] theorem Env.callPulse_turns (h : Option Handle) (timeout : Nat) : (e.callPulse h timeout).turns = e.turns := rfl
@[simp] theorem Env.callPulse_initAnswers (h : Option Handle) (timeout : Nat) : (e.callPulse h timeout).initAnswers = e.initAnswers := rfl
@[simp] theorem Env.callPulse_pulseAnswers (h : Option Handle) (timeout : Nat) : (e.callPulse h timeout).pulseAnswers = e.pulseAnswers.tail := rfl
@[simp] theorem Env.callPulse_draws (h : Option Handle) (timeout : Nat) : (e.callPulse h timeout).draws = e.draws + 1 := rfl
@[simp] theorem Env.callPulse_actCalls (h : Option Handle) (timeout : Nat) : (e.callPulse h timeout).actCalls = e.actCalls ++ [.pulse h timeout] := rfl
@[simp] theorem Env.callPulse_responses (h : Option Handle) (timeout : Nat) : (e.callPulse h timeout).responses = e.responses := rfl

@[simp] theorem State.shutdownActuator_pay : s.shutdownActuator.tx.pay = s.tx.pay := rfl
@[simp] theorem State.shutdownActuator_paylen : s.shutdownActuator.tx.paylen = s.tx.paylen := rfl
@[simp] theorem State.shutdownActuator_bits : s.shutdownActuator.tx.bits = s.tx.bits := rfl
@[simp] theorem State.shutdownActuator_nbits : s.shutdownActuator.tx.nbits = s.tx.nbits := rfl
@[simp] theorem State.shutdownActuator_bitsValid : s.shutdownActuator.tx.bitsValid = s.tx.bitsValid := rfl
@[simp] theorem State.shutdownActuator_actState : s.shutdownActuator.tx.actState = .closed := rfl
@[simp] theorem State.shutdownActuator_actHandle : s.shutdownActuator.tx.actHandle = none := rfl
@[simp] theorem State.shutdownActuator_txState : s.shutdownActuator.tx.txState = s.tx.txState := rfl
@[simp] theorem State.shutdownActuator_txStatus : s.shutdownActuator.tx.txStatus = s.tx.txStatus := rfl
@[simp] theorem State.shutdownActuator_txT : s.shutdownActuator.tx.txT = s.tx.txT := rfl
@[simp] theorem State.shutdownActuator_txG : s.shutdownActuator.tx.txG = s.tx.txG := rfl
@[simp] theorem State.shutdownActuator_bitIdx : s.shutdownActuator.tx.bitIdx = s.tx.bitIdx := rfl
@[simp] theorem State.shutdownActuator_txTime : s.shutdownActuator.tx.txTime = s.tx.txTime := rfl
@[simp] theorem State.shutdownActuator_failCnt : s.shutdownActuator.tx.failCnt = s.tx.failCnt := rfl
@[simp] theorem State.shutdownActuator_lastErr : s.shutdownActuator.tx.lastErr = s.tx.lastErr := rfl
@[simp] theorem State.shutdownActuator_fatalErr : s.shutdownActuator.tx.fatalErr = s.tx.fatalErr := rfl
@[simp] theorem State.shutdownActuator_txEv : s.shutdownActuator.tx.txEv = s.tx.txEv ++ [.shutdown] := rfl
@[simp] theorem State.shutdownActuator_rx : s.shutdownActuator.rx = s.rx := rfl
@[simp] theorem State.shutdownActuator_env : s.shutdownActuator.env = s.env.call (.shutdown s.tx.actHandle) := rfl

variable {β : Type} (ring : RxStateOf β)

@[simp] theorem slotWrite_rbState (i : Nat) (c : Slot β) : (slotWrite ring i c).rbState = ring.rbState := rfl
@[simp] theorem slotWrite_rbK (i : Nat) (c : Slot β) : (slotWrite ring i c).rbK = ring.rbK := rfl
@[simp] theorem slotWrite_slots (i : Nat) (c : Slot β) : (slotWrite ring i c).slots = ring.slots.set i c := rfl
@[simp] theorem slotWrite_rbWr (i : Nat) (c : Slot β) : (slotWrite ring i c).rbWr = ring.rbWr := rfl
@[simp] theorem slotWrite_rbRd (i : Nat) (c : Slot β) : (slotWrite ring i c).rbRd = ring.rbRd := rfl
@[simp] theorem slotWrite_rbDone (i : Nat) (c : Slot β) : (slotWrite ring i c).rbDone = ring.rbDone := rfl
@[simp] theorem slotWrite_rbWseq (i : Nat) (c : Slot β) : (slotWrite ring i c).rbWseq = ring.rbWseq := rfl
@[simp] theorem slotWrite_rbRseq (i : Nat) (c : Slot β) : (slotWrite ring i c).rbRseq = ring.rbRseq := rfl

@[simp] theorem fillSlot_rbState (d : β) : (fillSlot d ring).rbState = ring.rbState := rfl
@[simp] theorem fillSlot_rbK (d : β) : (fillSlot d ring).rbK = ring.rbK := rfl
@[simp] theorem fillSlot_slots (d : β) : (fillSlot d ring).slots = ring.slots.set ring.rbWr (.full d) := rfl
@[simp] theorem fillSlot_rbWr (d : β) : (fillSlot d ring).rbWr = (ring.rbWr + 1) % ring.rbK := rfl
@[simp] theorem fillSlot_rbRd (d : β) : (fillSlot d ring).rbRd = ring.rbRd := rfl
@[simp] theorem fillSlot_rbDone (d : β) : (fillSlot d ring).rbDone = ring.rbDone := rfl
@[simp] theorem fillSlot_rbWseq (d : β) : (fillSlot d ring).rbWseq = ring.rbWseq ++ [d] := rfl
@[simp] theorem fillSlot_rbRseq (d : β) : (fillSlot d ring).rbRseq = ring.rbRseq := rfl

@[simp] theorem drainSlot_rbState (d : β) : (drainSlot d ring).rbState = ring.rbState := rfl
@[simp] theorem drainSlot_rbK (d : β) : (drainSlot d ring).rbK = ring.rbK := rfl
@[simp] theorem drainSlot_slots (d : β) : (drainSlot d ring).slots = ring.slots.set ring.rbRd .empty := rfl
@[simp] theorem drainSlot_rbWr (d : β) : (drainSlot d ring).rbWr = ring.rbWr := rfl
@[simp] theorem drainSlot_rbRd (d : β) : (drainSlot d ring).rbRd = (ring.rbRd + 1) % ring.rbK := rfl
@[simp] theorem drainSlot_rbDone (d : β) : (drainSlot d ring).rbDone = ring.rbDone := rfl
@[simp] theorem drainSlot_rbWseq (d : β) : (drainSlot d ring).rbWseq = ring.rbWseq := rfl
@[simp] theorem drainSlot_rbRseq (d : β) : (drainSlot d ring).rbRseq = ring.rbRseq ++ [d] := rfl

@[simp] theorem rstTx_tx : (rstTx s).tx = TxState.reset := rfl
@[simp] theorem rstTx_rx : (rstTx s).rx = s.rx := rfl
@[simp] theorem rstTx_env : (rstTx s).env = s.env := rfl
@[simp] theorem rstRx_tx : (rstRx s).tx = s.tx := rfl
@[simp] theorem rstRx_rx : (rstRx s).rx = RxState.reset := rfl
@[simp] theorem rstRx_env : (rstRx s).env = s.env := rfl

end Sys2Proof.Machine
end

