-- ==== Sys2Proof/Laws/Ops.lean ====
section
/-! SUPPORT. For each shared operation, once, everything it can do. -/

namespace Sys2Proof.Machine

/-! ### Two-valued elements -/

theorem TxMode.idle_of_ne_run {m : TxMode} (h : m ≠ .run) : m = .idle := by cases m <;> simp_all

theorem ActState.closed_of_ne_opened {a : ActState} (h : a ≠ .opened) : a = .closed := by cases a <;> simp_all

theorem RbState.built_of_ne_unbuilt {r : RbState} (h : r ≠ .unbuilt) : r = .built := by cases r <;> simp_all

theorem bit_zero_or_one (b : Bit) : b = 0 ∨ b = 1 := by revert b; decide

theorem bit_eq_zero_iff (b : Bit) : b = 0 ↔ ¬b = 1 := by revert b; decide

/-! ### Responses -/

@[simp] theorem answer_eq (p : Port) (r : Response) (s : State) : answer p r s = .next (s.respond p r) := rfl

@[simp] theorem refuse_eq (p : Port) (st : Status) (s : State) : refuse p st s = .next (s.respond p (.plain st)) := rfl

/-! ### Draws (R142) -/

@[simp] theorem nextInit_ready (e : Env) (r : InitAnswer) (rs : List InitAnswer) :
    Env.nextInit { e with initAnswers := r :: rs } = r := rfl

theorem nextInit_of_ready {e : Env} {r : InitAnswer} {rs : List InitAnswer} (h : e.initAnswers = r :: rs) :
    e.nextInit = r := by simp [Env.nextInit, h]

theorem nextPulse_of_ready {e : Env} {r : PulseAnswer} {rs : List PulseAnswer} (h : e.pulseAnswers = r :: rs) :
    e.nextPulse = r := by simp [Env.nextPulse, h]

/-! ### Taking an exception (R244, R246) -/

theorem takeException_fatal (k : InitError) (tx : TxState) :
    takeException (.fatal k) tx = { tx with fatalErr := k.kind, txStatus := .aborted } := rfl

theorem takeException_transient (k : PulseError) (tx : TxState) :
    takeException (.transient k) tx = { tx with failCnt := tx.failCnt + 1, lastErr := k.kind } := rfl

/-! ### The run (R150) -/

theorem advanceBit_last {i : Nat} {tx : TxState} (h : i + 1 = tx.nbits) :
    advanceBit i tx = { tx with bitIdx := i + 1, txState := .idle, txStatus := .done, bitsValid := false } := by
  simp [advanceBit, h, TxState.endRun]

theorem advanceBit_inner {i : Nat} {tx : TxState} (h : i + 1 ≠ tx.nbits) :
    advanceBit i tx = { tx with bitIdx := i + 1 } := by
  simp [advanceBit, h]

/-! ### The symbols (R151, R152) -/

theorem ones_append_one (l : List Bit) : ones (l ++ [1]) = ones l + 1 := by simp [ones]

theorem ones_append_zero (l : List Bit) : ones (l ++ [0]) = ones l := by simp [ones]

theorem zeros_append_one (l : List Bit) : zeros (l ++ [1]) = zeros l := by simp [zeros]

theorem zeros_append_zero (l : List Bit) : zeros (l ++ [0]) = zeros l + 1 := by simp [zeros]

/-- One more bit scheduled: the prefix of `BITS` grows by the bit fetched. -/
theorem take_succ_of_fetch {tx : TxState} {b : Bit} (h : fetchBit tx = some b) :
    tx.bits.take (tx.bitIdx + 1) = tx.bits.take tx.bitIdx ++ [b] := by
  simp only [fetchBit] at h
  simp [List.take_add_one, h]

theorem fetchBit_lt {tx : TxState} {b : Bit} (h : fetchBit tx = some b) : tx.bitIdx < tx.bits.length :=
  (List.getElem?_eq_some_iff.mp h).1

/-! ### Payload assembly (R122, R123) -/

@[simp] theorem bits8_length (v : Byte) : (bits8 v).length = 8 := rfl

theorem flatMap_bits8_length (p : List Byte) : (p.flatMap bits8).length = 8 * p.length := by
  induction p with
  | nil => rfl
  | cons v p ih => simp [ih]; omega

theorem encodePayload_nil (pre : List Bit) : encodePayload pre [] = pre := by simp [encodePayload]

/-! ### The ring (R234) -/

theorem slotRead_lt {β : Type} {rx : RxStateOf β} {i : Nat} {c : Slot β} (h : slotRead rx i = some c) : i < rx.slots.length :=
  (List.getElem?_eq_some_iff.mp h).1

theorem nextSlot_lt {β : Type} {rx : RxStateOf β} (c : Nat) (h : 0 < rx.rbK) : nextSlot rx c < rx.rbK := Nat.mod_lt _ h

end Sys2Proof.Machine
end

