-- ==== Sys2Proof/Laws/Exec.lean ====
section
/-! SUPPORT. Inversion: if a meaning, the scheduler or the step answers a next state, then one of these cases holds.
Proofs about next states cite these and unfold nothing. -/

namespace Sys2Proof.Machine

variable {s t : State}

theorem execEncodeWith_next {P : Params} {p : List Byte} (h : execEncodeWith P p s = .next t) :
    (s.tx.txState = .run ∧ t = s.respond .txh (.plain .busy)) ∨
    (s.tx.txState = .idle ∧ payloadTooLong P p = true ∧ t = s.respond .txh (.plain .param)) ∨
    (s.tx.txState = .idle ∧ payloadTooLong P p = false ∧
      t = (s.withTx (storePayload P p s.tx)).respond .txh ⟨.ok, .none, .bits (encodePayload P.preamble p)⟩) := by
  unfold execEncodeWith at h
  split at h
  · exact .inl ⟨‹_›, by simpa using h.symm⟩
  · have hi := TxMode.idle_of_ne_run ‹_›
    split at h
    · exact .inr (.inl ⟨hi, ‹_›, by simpa using h.symm⟩)
    · rename_i hf
      exact .inr (.inr ⟨hi, by simpa using hf, by simpa using h.symm⟩)

theorem execActInit_next (h : execActInit s = .next t) :
    (s.tx.txState = .run ∧ t = s.respond .txh (.plain .busy)) ∨
    (s.tx.txState = .idle ∧ s.tx.actState = .opened ∧
      t = (s.withTx (takeException (.fatal .alreadyInitialized) s.tx)).respond .txh
        ⟨.deverr, .alreadyInitialized, .none⟩) ∨
    (s.tx.txState = .idle ∧ s.tx.actState = .closed ∧
      t = State.respond { s with tx := applyInit s.env.nextInit s.tx, env := s.env.callInit } .txh
        (initResponse s.env.nextInit)) := by
  unfold execActInit at h
  split at h
  · exact .inl ⟨‹_›, by simpa using h.symm⟩
  · have hi := TxMode.idle_of_ne_run ‹_›
    split at h
    · exact .inr (.inl ⟨hi, ‹_›, by simpa using h.symm⟩)
    · exact .inr (.inr ⟨hi, ActState.closed_of_ne_opened ‹_›, by simpa using h.symm⟩)

theorem execTransmit_next {a b : Nat} (h : execTransmit a b s = .next t) :
    (s.tx.txState = .run ∧ t = s.respond .txh (.plain .busy)) ∨
    (s.tx.txState = .idle ∧ (s.tx.bitsValid = false ∨ s.tx.actState = .closed) ∧
      t = s.respond .txh (.plain .state)) ∨
    (s.tx.txState = .idle ∧ s.tx.bitsValid = true ∧ s.tx.actState = .opened ∧
      t = (s.withTx (startRun a b s.tx)).respond .txh (.plain .ok)) := by
  unfold execTransmit at h
  split at h
  · exact .inl ⟨‹_›, by simpa using h.symm⟩
  · have hi := TxMode.idle_of_ne_run ‹_›
    split at h
    · exact .inr (.inl ⟨hi, .inl ‹_›, by simpa using h.symm⟩)
    · rename_i hv
      have hv : s.tx.bitsValid = true := by simpa using hv
      split at h
      · exact .inr (.inl ⟨hi, .inr ‹_›, by simpa using h.symm⟩)
      · refine .inr (.inr ⟨hi, hv, ?_, by simpa using h.symm⟩)
        cases ha : s.tx.actState <;> simp_all

theorem execActShutdown_next (h : execActShutdown s = .next t) :
    (s.tx.txState = .run ∧ t = s.respond .txh (.plain .busy)) ∨
    (s.tx.txState = .idle ∧ s.tx.actState = .closed ∧ t = s.respond .txh (.plain .state)) ∨
    (s.tx.txState = .idle ∧ s.tx.actState = .opened ∧ t = s.shutdownActuator.respond .txh (.plain .ok)) := by
  unfold execActShutdown at h
  split at h
  · exact .inl ⟨‹_›, by simpa using h.symm⟩
  · have hi := TxMode.idle_of_ne_run ‹_›
    split at h
    · exact .inr (.inl ⟨hi, ‹_›, by simpa using h.symm⟩)
    · refine .inr (.inr ⟨hi, ?_, by simpa using h.symm⟩)
      cases ha : s.tx.actState <;> simp_all

/-! ### The ring (R181 to R189) -/

theorem ringInit_cases {β : Type} (k : Nat) (rx : RxStateOf β) :
    (rx.rbState = .built ∧ ringInit k rx = .refuse .state) ∨
    (rx.rbState = .unbuilt ∧ k < 2 ∧ ringInit k rx = .refuse .param) ∨
    (rx.rbState = .unbuilt ∧ 2 ≤ k ∧ ringInit k rx = .ok .none (buildRing k)) := by
  cases hb : rx.rbState with
  | built => exact .inl ⟨rfl, by simp [ringInit, hb]⟩
  | unbuilt =>
    rcases Nat.lt_or_ge k 2 with hk | hk
    · exact .inr (.inl ⟨rfl, hk, by simp [ringInit, hb, nodeCountTooSmall, hk]⟩)
    · exact .inr (.inr ⟨rfl, hk, by simp [ringInit, hb, nodeCountTooSmall, Nat.not_lt.mpr hk]⟩)

theorem ringWrite_cases {β : Type} (d : β) (rx : RxStateOf β) :
    ((rx.rbState = .unbuilt ∨ rx.rbDone = true) ∧ ringWrite d rx = .refuse .state) ∨
    (rx.rbState = .built ∧ rx.rbDone = false ∧
      ((slotRead rx rx.rbWr = none ∧ ringWrite d rx = .stop .slotOutOfRange) ∨
       ∃ c, slotRead rx rx.rbWr = some c ∧
        ((c.filled = true ∧ ringWrite d rx = .refuse .wait) ∨
         (c.filled = false ∧ ringWrite d rx = .ok .none (fillSlot d rx))))) := by
  cases hb : rx.rbState with
  | unbuilt => exact .inl ⟨.inl rfl, by simp [ringWrite, hb]⟩
  | built =>
    cases hd : rx.rbDone with
    | true => exact .inl ⟨.inr rfl, by simp [ringWrite, hb, hd]⟩
    | false =>
      refine .inr ⟨rfl, rfl, ?_⟩
      cases hc : slotRead rx rx.rbWr with
      | none => exact .inl ⟨rfl, by simp [ringWrite, hb, hd, hc]⟩
      | some c =>
        refine .inr ⟨c, rfl, ?_⟩
        cases hf : c.filled with
        | true => exact .inl ⟨rfl, by simp [ringWrite, hb, hd, hc, hf]⟩
        | false => exact .inr ⟨rfl, by simp [ringWrite, hb, hd, hc, hf]⟩

theorem ringRead_cases {β : Type} (rx : RxStateOf β) :
    (rx.rbState = .unbuilt ∧ ringRead rx = .refuse .state) ∨
    (rx.rbState = .built ∧
      ((slotRead rx rx.rbRd = none ∧ ringRead rx = .stop .slotOutOfRange) ∨
       ∃ c, slotRead rx rx.rbRd = some c ∧
        ((c.filled = false ∧ ringRead rx = .refuse .wait) ∨
         (c.filled = true ∧ c.data = none ∧ ringRead rx = .stop .slotDataMissing) ∨
         (c.filled = true ∧ ∃ d, c.data = some d ∧ ringRead rx = .ok (.block d) (drainSlot d rx))))) := by
  cases hb : rx.rbState with
  | unbuilt => exact .inl ⟨rfl, by simp [ringRead, hb]⟩
  | built =>
    refine .inr ⟨rfl, ?_⟩
    cases hc : slotRead rx rx.rbRd with
    | none => exact .inl ⟨rfl, by simp [ringRead, hb, hc]⟩
    | some c =>
      refine .inr ⟨c, rfl, ?_⟩
      cases hf : c.filled with
      | false => exact .inl ⟨rfl, by simp [ringRead, hb, hc, hf]⟩
      | true =>
        refine .inr ?_
        cases hd : c.data with
        | none => exact .inl ⟨rfl, rfl, by simp [ringRead, hb, hc, hf, hd]⟩
        | some d => exact .inr ⟨rfl, d, rfl, by simp [ringRead, hb, hc, hf, hd]⟩

/-- The three ring operations that only look at `RB_STATE` (R187, R188, R189). -/
theorem ringFlag_cases {β : Type} (rx : RxStateOf β) :
    (rx.rbState = .unbuilt ∧ ringSetDone rx = .refuse .state ∧ ringGetDone rx = .refuse .state ∧
      ringFree rx = .refuse .state) ∨
    (rx.rbState = .built ∧ ringSetDone rx = .ok .none { rx with rbDone := true } ∧
      ringGetDone rx = .ok (.flag rx.rbDone) rx ∧ ringFree rx = .ok .none RxStateOf.reset) := by
  cases hb : rx.rbState <;> simp [ringSetDone, ringGetDone, ringFree, hb]

@[simp] theorem answerRing_ok (p : Port) (v : RingValue Block) (rx : RxState) (s : State) :
    answerRing p (.ok v rx) s = .next ((s.withRx rx).respond p ⟨.ok, .none, v.response⟩) := rfl

@[simp] theorem answerRing_refuse (p : Port) (st : Status) (s : State) :
    answerRing p (.refuse st) s = .next (s.respond p (.plain st)) := rfl

@[simp] theorem answerRing_stop (p : Port) (f : Fault) (s : State) : answerRing p (.stop f) s = .fault f := rfl

theorem execRbInit_next {k : Nat} (h : execRbInit k s = .next t) :
    (s.rx.rbState = .built ∧ t = s.respond .rxh (.plain .state)) ∨
    (s.rx.rbState = .unbuilt ∧ k < 2 ∧ t = s.respond .rxh (.plain .param)) ∨
    (s.rx.rbState = .unbuilt ∧ 2 ≤ k ∧ t = (s.withRx (buildRing k)).respond .rxh (.plain .ok)) := by
  unfold execRbInit at h
  rcases ringInit_cases k s.rx with ⟨hb, e⟩ | ⟨hb, hk, e⟩ | ⟨hb, hk, e⟩ <;> rw [e] at h
  · exact .inl ⟨hb, (Host.Outcome.next.inj h).symm⟩
  · exact .inr (.inl ⟨hb, hk, (Host.Outcome.next.inj h).symm⟩)
  · exact .inr (.inr ⟨hb, hk, (Host.Outcome.next.inj h).symm⟩)

theorem execRbWrite_next {d : Block} (h : execRbWrite d s = .next t) :
    ((s.rx.rbState = .unbuilt ∨ s.rx.rbDone = true) ∧ t = s.respond .prd (.plain .state)) ∨
    (s.rx.rbState = .built ∧ s.rx.rbDone = false ∧ ∃ c, slotRead s.rx s.rx.rbWr = some c ∧
      ((c.filled = true ∧ t = s.respond .prd (.plain .wait)) ∨
       (c.filled = false ∧ t = (s.withRx (fillSlot d s.rx)).respond .prd (.plain .ok)))) := by
  unfold execRbWrite at h
  rcases ringWrite_cases d s.rx with
    ⟨hb, e⟩ | ⟨hb, hd, ⟨_, e⟩ | ⟨c, hc, ⟨hf, e⟩ | ⟨hf, e⟩⟩⟩ <;> rw [e] at h
  · exact .inl ⟨hb, (Host.Outcome.next.inj h).symm⟩
  · cases h
  · exact .inr ⟨hb, hd, c, hc, .inl ⟨hf, (Host.Outcome.next.inj h).symm⟩⟩
  · exact .inr ⟨hb, hd, c, hc, .inr ⟨hf, (Host.Outcome.next.inj h).symm⟩⟩

theorem execRbRead_next (h : execRbRead s = .next t) :
    (s.rx.rbState = .unbuilt ∧ t = s.respond .cns (.plain .state)) ∨
    (s.rx.rbState = .built ∧ ∃ c, slotRead s.rx s.rx.rbRd = some c ∧
      ((c.filled = false ∧ t = s.respond .cns (.plain .wait)) ∨
       (c.filled = true ∧ ∃ d, c.data = some d ∧
        t = (s.withRx (drainSlot d s.rx)).respond .cns ⟨.ok, .none, .block d⟩))) := by
  unfold execRbRead at h
  rcases ringRead_cases s.rx with
    ⟨hb, e⟩ | ⟨hb, ⟨_, e⟩ | ⟨c, hc, ⟨hf, e⟩ | ⟨_, _, e⟩ | ⟨hf, d, hd, e⟩⟩⟩ <;> rw [e] at h
  · exact .inl ⟨hb, (Host.Outcome.next.inj h).symm⟩
  · cases h
  · exact .inr ⟨hb, c, hc, .inl ⟨hf, (Host.Outcome.next.inj h).symm⟩⟩
  · cases h
  · exact .inr ⟨hb, c, hc, .inr ⟨hf, d, hd, (Host.Outcome.next.inj h).symm⟩⟩

theorem execRbSetDone_next (h : execRbSetDone s = .next t) :
    (s.rx.rbState = .unbuilt ∧ t = s.respond .prd (.plain .state)) ∨
    (s.rx.rbState = .built ∧ t = (s.withRx { s.rx with rbDone := true }).respond .prd (.plain .ok)) := by
  unfold execRbSetDone at h
  rcases ringFlag_cases s.rx with ⟨hb, e, _, _⟩ | ⟨hb, e, _, _⟩ <;> rw [e] at h
  · exact .inl ⟨hb, (Host.Outcome.next.inj h).symm⟩
  · exact .inr ⟨hb, (Host.Outcome.next.inj h).symm⟩

theorem execRbGetDone_next (h : execRbGetDone s = .next t) :
    (s.rx.rbState = .unbuilt ∧ t = s.respond .cns (.plain .state)) ∨
    (s.rx.rbState = .built ∧ t = s.respond .cns ⟨.ok, .none, .flag s.rx.rbDone⟩) := by
  unfold execRbGetDone at h
  rcases ringFlag_cases s.rx with ⟨hb, _, e, _⟩ | ⟨hb, _, e, _⟩ <;> rw [e] at h
  · exact .inl ⟨hb, (Host.Outcome.next.inj h).symm⟩
  · exact .inr ⟨hb, (Host.Outcome.next.inj h).symm⟩

theorem execRbFree_next (h : execRbFree s = .next t) :
    (s.rx.rbState = .unbuilt ∧ t = s.respond .rxh (.plain .state)) ∨
    (s.rx.rbState = .built ∧ t = (s.withRx RxState.reset).respond .rxh (.plain .ok)) := by
  unfold execRbFree at h
  rcases ringFlag_cases s.rx with ⟨hb, _, _, e⟩ | ⟨hb, _, _, e⟩ <;> rw [e] at h
  · exact .inl ⟨hb, (Host.Outcome.next.inj h).symm⟩
  · exact .inr ⟨hb, (Host.Outcome.next.inj h).symm⟩

/-! ### The scheduler and the step -/

theorem exec_decodeSym1_one (s : State) : exec (decodeSym1 1) s = execPulse s := rfl

theorem exec_decodeSym1_zero (s : State) : exec (decodeSym1 0) s = execGap s := rfl

/-- The scheduler's step, if it fetches: the symbol on the TX elements, then the advance (R150). -/
theorem schedulerStep_next (h : schedulerStep s = .next t) :
    ∃ b, fetchBit s.tx = some b ∧
      ((b = 1 ∧ t = ⟨advanceBit s.tx.bitIdx (applyPulse s.env.nextPulse s.tx), s.rx,
          s.env.callPulse s.tx.actHandle s.tx.txT⟩) ∨
       (b = 0 ∧ t = s.withTx (advanceBit s.tx.bitIdx (applyGap s.tx)))) := by
  unfold schedulerStep at h
  split at h
  · cases h
  · rename_i b hb
    refine ⟨b, hb, ?_⟩
    rcases bit_zero_or_one b with rfl | rfl
    · exact .inr ⟨rfl, by rw [exec_decodeSym1_zero] at h; exact (Host.Outcome.next.inj h).symm⟩
    · exact .inl ⟨rfl, by rw [exec_decodeSym1_one] at h; exact (Host.Outcome.next.inj h).symm⟩

theorem schedulerTurn_next (h : schedulerTurn s = .next t) :
    (s.tx.txState = .idle ∧ t = s) ∨ (s.tx.txState = .run ∧ schedulerStep s = .next t) := by
  unfold schedulerTurn at h
  split at h
  · exact .inr ⟨‹_›, h⟩
  · exact .inl ⟨TxMode.idle_of_ne_run ‹_›, by simpa using h.symm⟩

/-- With the parameters of this hardware the parametric operation is `exec` (R10). -/
@[simp] theorem execFor_params (i : Instr) (s : State) : execFor Config.params i s = exec i s := by cases i <;> rfl

/-- Only `ENCODE` reads a parameter (R22). -/
theorem execFor_eq_exec {P : Params} {i : Instr} (h : ∀ payload, i ≠ .encode payload) (s : State) :
    execFor P i s = exec i s := by
  cases i <;> first | rfl | exact absurd rfl (h _)

theorem commandTurn_next {P : Params} {p : Port} {op : BitVec 4} {a : Operands} (h : commandTurn P p op a s = .next t) :
    (∃ i, decode (.cmd4 p op a) = .ok i ∧ execFor P i s = .next t) ∨
    (∃ r, decode (.cmd4 p op a) = .rejected r ∧ t = s.respond p (.plain .illegal)) := by
  unfold commandTurn at h
  split at h
  · exact .inl ⟨_, ‹_›, h⟩
  · exact .inr ⟨_, ‹_›, by simpa using h.symm⟩

/-- With the parameters of this hardware a command turn runs `exec`. -/
theorem commandTurn_exec {p : Port} {op : BitVec 4} {a : Operands} (h : commandTurn Config.params p op a s = .next t) :
    (∃ i, decode (.cmd4 p op a) = .ok i ∧ exec i s = .next t) ∨
    (∃ r, decode (.cmd4 p op a) = .rejected r ∧ t = s.respond p (.plain .illegal)) := by
  simpa only [execFor_params] using commandTurn_next h

/-- What one transition can be (R74): the scheduler's turn, a command, or a reset. -/
theorem nextTransition_next {P : Params} (h : nextTransition P s = .next t) :
    ((s.env.turns = [] ∨ ∃ ts, s.env.turns = .sched :: ts) ∧
      schedulerTurn (s.withTurns s.env.turns.tail) = .next t) ∨
    (∃ p op a ts, s.env.turns = .cmd p op a :: ts ∧ commandTurn P p op a (s.withTurns ts) = .next t) ∨
    (∃ ts, s.env.turns = .rstTx :: ts ∧ t = rstTx (s.withTurns ts)) ∨
    (∃ ts, s.env.turns = .rstRx :: ts ∧ t = rstRx (s.withTurns ts)) := by
  unfold nextTransition at h
  split at h
  · rename_i hs
    refine .inl ⟨.inl hs, ?_⟩
    rw [hs, List.tail_nil, ← hs]; exact h
  · rename_i u us hs
    cases u with
    | cmd p op a => exact .inr (.inl ⟨p, op, a, us, hs, h⟩)
    | sched => exact .inl ⟨.inr ⟨us, hs⟩, by simpa [hs, takeTurn] using h⟩
    | rstTx => exact .inr (.inr (.inl ⟨us, hs, by simpa [takeTurn] using h.symm⟩))
    | rstRx => exact .inr (.inr (.inr ⟨us, hs, by simpa [takeTurn] using h.symm⟩))

/-- What one step can be (R74). -/
theorem step_next (h : step s = .next t) :
    ((s.env.turns = [] ∨ ∃ ts, s.env.turns = .sched :: ts) ∧
      schedulerTurn (s.withTurns s.env.turns.tail) = .next t) ∨
    (∃ p op a ts, s.env.turns = .cmd p op a :: ts ∧
      commandTurn Config.params p op a (s.withTurns ts) = .next t) ∨
    (∃ ts, s.env.turns = .rstTx :: ts ∧ t = rstTx (s.withTurns ts)) ∨
    (∃ ts, s.env.turns = .rstRx :: ts ∧ t = rstRx (s.withTurns ts)) :=
  nextTransition_next h

end Sys2Proof.Machine
end

