-- ==== Sys2Proof/Laws/Memory.lean ====
section
/-! SUPPORT. The index spaces (R60 to R62): reading after a write, and every operation that writes one keeps the
canonical form `Memory.wf` (R52(a); log 5). -/

namespace Sys2Proof.Machine

/-! ### Reading a cell after a write -/

theorem slotRead_slotWrite_same {β : Type} {rx : RxStateOf β} {i : Nat} (c : Slot β) (h : i < rx.slots.length) :
    slotRead (slotWrite rx i c) i = some c := by simp [slotRead, slotWrite, h]

theorem slotRead_slotWrite_other {β : Type} {rx : RxStateOf β} {i j : Nat} (c : Slot β) (h : i ≠ j) :
    slotRead (slotWrite rx i c) j = slotRead rx j := by simp [slotRead, slotWrite, h]

/-! ### The canonical form is kept -/

theorem Memory.wf_reset : Memory.wf State.reset := by decide

theorem storePayload_wf (P : Params) (p : List Byte) (tx : TxState) :
    (storePayload P p tx).paylen = (storePayload P p tx).pay.length ∧
    (storePayload P p tx).nbits = (storePayload P p tx).bits.length := by
  simp [storePayload, encodePayload, Params.pl]
  omega

theorem slotWrite_wf {β : Type} {rx : RxStateOf β} (i : Nat) (c : Slot β) (h : rx.rbK = rx.slots.length) :
    (slotWrite rx i c).rbK = (slotWrite rx i c).slots.length := by simp [h]

theorem fillSlot_wf {β : Type} {rx : RxStateOf β} (d : β) (h : rx.rbK = rx.slots.length) :
    (fillSlot d rx).rbK = (fillSlot d rx).slots.length := by simp [h]

theorem drainSlot_wf {β : Type} {rx : RxStateOf β} (d : β) (h : rx.rbK = rx.slots.length) :
    (drainSlot d rx).rbK = (drainSlot d rx).slots.length := by simp [h]

theorem buildRing_wf {β : Type} (k : Nat) :
    (buildRing k : RxStateOf β).rbK = (buildRing k : RxStateOf β).slots.length := by simp [buildRing]

theorem Memory.wf_withTx {s : State} {tx : TxState} (h : Memory.wf s) (hp : tx.paylen = tx.pay.length)
    (hn : tx.nbits = tx.bits.length) : Memory.wf (s.withTx tx) := ⟨hp, hn, h.2.2⟩

theorem Memory.wf_withRx {s : State} {rx : RxState} (h : Memory.wf s) (hk : rx.rbK = rx.slots.length) :
    Memory.wf (s.withRx rx) := ⟨h.1, h.2.1, hk⟩

end Sys2Proof.Machine
end

