-- ==== Sys2Proof/Laws/PerInstr.lean ====
section
/-! SUPPORT. Per-instruction family `TableRow`: the word the encoder writes for an operation is the row of the
operation table that stands for it (R99): its format, code and owning port. -/

namespace Sys2Proof.Laws.TableRow

/-- The word of an operation agrees with R92 and R100: a symbol is internal; a command's code is not reserved, its
port owns it, and bit 3 of its code is 1 exactly on the RX ports. -/
def Statement (i : Instr) : Prop :=
  match encode i with
  | .sym1 _ => i.port = none
  | .cmd4 p op a =>
    i.port = some p ∧ op ∉ [0b0000#4, 0b0110#4, 0b0111#4, 0b1110#4, 0b1111#4] ∧
    decodeCode op a = some (p, i) ∧ (op.getLsbD 3 = true ↔ p ∈ [Port.rxh, Port.prd, Port.cns])

theorem gap : Statement .gap := rfl

theorem pulse : Statement .pulse := rfl

theorem encode (payload : List Byte) : Statement (.encode payload) := ⟨rfl, by decide, rfl, by decide⟩

theorem actInit : Statement .actInit := ⟨rfl, by decide, rfl, by decide⟩

theorem transmit (t g : Nat) : Statement (.transmit t g) := ⟨rfl, by decide, rfl, by decide⟩

theorem cancel : Statement .cancel := ⟨rfl, by decide, rfl, by decide⟩

theorem actShutdown : Statement .actShutdown := ⟨rfl, by decide, rfl, by decide⟩

theorem rbInit (k : Nat) : Statement (.rbInit k) := ⟨rfl, by decide, rfl, by decide⟩

theorem rbWrite (d : Block) : Statement (.rbWrite d) := ⟨rfl, by decide, rfl, by decide⟩

theorem rbRead : Statement .rbRead := ⟨rfl, by decide, rfl, by decide⟩

theorem rbSetDone : Statement .rbSetDone := ⟨rfl, by decide, rfl, by decide⟩

theorem rbGetDone : Statement .rbGetDone := ⟨rfl, by decide, rfl, by decide⟩

theorem rbFree : Statement .rbFree := ⟨rfl, by decide, rfl, by decide⟩

end Sys2Proof.Laws.TableRow
end

