-- ==== Sys2Proof/Laws/Scheduler.lean ====
section
/-! SUPPORT. What one symbol does to the TX elements, field by field (R151, R152); one step of a run; and what issuing a
command answers (R96). -/

namespace Sys2Proof.Machine

/-! ### `PULSE` and `GAP` on the TX elements (R151, R152, R246) -/

@[simp] theorem applyPulse_pay (r : PulseAnswer) (tx : TxState) : (applyPulse r tx).pay = tx.pay := by
  cases r <;> rfl

@[simp] theorem applyPulse_paylen (r : PulseAnswer) (tx : TxState) : (applyPulse r tx).paylen = tx.paylen := by
  cases r <;> rfl

@[simp] theorem applyPulse_bits (r : PulseAnswer) (tx : TxState) : (applyPulse r tx).bits = tx.bits := by
  cases r <;> rfl

@[simp] theorem applyPulse_nbits (r : PulseAnswer) (tx : TxState) : (applyPulse r tx).nbits = tx.nbits := by
  cases r <;> rfl

@[simp] theorem applyPulse_bitsValid (r : PulseAnswer) (tx : TxState) : (applyPulse r tx).bitsValid = tx.bitsValid := by
  cases r <;> rfl

@[simp] theorem applyPulse_actState (r : PulseAnswer) (tx : TxState) : (applyPulse r tx).actState = tx.actState := by
  cases r <;> rfl

@[simp] theorem applyPulse_actHandle (r : PulseAnswer) (tx : TxState) : (applyPulse r tx).actHandle = tx.actHandle := by
  cases r <;> rfl

@[simp] theorem applyPulse_txState (r : PulseAnswer) (tx : TxState) : (applyPulse r tx).txState = tx.txState := by
  cases r <;> rfl

@[simp] theorem applyPulse_txStatus (r : PulseAnswer) (tx : TxState) : (applyPulse r tx).txStatus = tx.txStatus := by
  cases r <;> rfl

@[simp] theorem applyPulse_txT (r : PulseAnswer) (tx : TxState) : (applyPulse r tx).txT = tx.txT := by
  cases r <;> rfl

@[simp] theorem applyPulse_txG (r : PulseAnswer) (tx : TxState) : (applyPulse r tx).txG = tx.txG := by
  cases r <;> rfl

@[simp] theorem applyPulse_bitIdx (r : PulseAnswer) (tx : TxState) : (applyPulse r tx).bitIdx = tx.bitIdx := by
  cases r <;> rfl

@[simp] theorem applyPulse_fatalErr (r : PulseAnswer) (tx : TxState) : (applyPulse r tx).fatalErr = tx.fatalErr := by
  cases r <;> rfl

@[simp] theorem applyPulse_txTime (r : PulseAnswer) (tx : TxState) :
    (applyPulse r tx).txTime = tx.txTime + tx.txT := rfl

@[simp] theorem applyPulse_txEv (r : PulseAnswer) (tx : TxState) :
    (applyPulse r tx).txEv = tx.txEv ++ [.pulse tx.txTime tx.txT r] := by cases r <;> rfl

theorem applyPulse_ok (tx : TxState) :
    applyPulse .ok tx =
      { tx with txTime := tx.txTime + tx.txT, txEv := tx.txEv ++ [.pulse tx.txTime tx.txT .ok] } := rfl

theorem applyPulse_err (k : PulseError) (tx : TxState) :
    applyPulse (.err k) tx =
      { tx with
        failCnt := tx.failCnt + 1, lastErr := k.kind, txTime := tx.txTime + tx.txT,
        txEv := tx.txEv ++ [.pulse tx.txTime tx.txT (.err k)] } := rfl

theorem applyGap_eq (tx : TxState) :
    applyGap tx = { tx with txTime := tx.txTime + tx.txG, txEv := tx.txEv ++ [.gap tx.txTime tx.txG] } := rfl

/-! ### A run of the machine, one step at a time -/

theorem run_succ {n : Nat} {s t : State} (h : step s = .next t) :
    Host.Core.run Sys2Proof.core (n + 1) s = Host.Core.run Sys2Proof.core n t := by
  have h' : Sys2Proof.core.step s = .next t := h
  simp only [Host.Core.run, h']

/-! ### Commands -/

/-- A command word that decodes stands on the port that owns its operation (R99). -/
theorem port_of_decode {p : Port} {op : BitVec 4} {a : Operands} {i : Instr} (h : decode (.cmd4 p op a) = .ok i) :
    i.port = some p := by
  have h : decodeCmd4 p op a = .ok i := h
  unfold decodeCmd4 at h
  split at h
  · cases h
  · rename_i owner j hj
    split at h
    · cases h
      subst_vars
      unfold decodeCode at hj
      split at hj <;> cases hj <;> rfl
    · cases h

/-- Issuing a command answers the state its meaning gives and the response it appends. -/
theorem issue_of_exec {i : Instr} {s t : State} {p : Port} {op : BitVec 4} {a : Operands} {r : Response}
    (he : encode i = .cmd4 p op a) (h : exec i s = .next t)
    (hr : t.env.responses = s.env.responses ++ [(p, r)]) : issue i s = some (t, r) := by
  have hd : decode (.cmd4 p op a) = .ok i := by rw [← he]; cases i <;> rfl
  have e : step (s.withTurns (.cmd p op a :: s.env.turns)) = .next t := by
    show commandTurn Config.params p op a s = .next t
    simp only [commandTurn, hd, execFor_params, h]
  simp [issue, turnOf, he, e, hr]

end Sys2Proof.Machine
end

