-- ==== Sys2Proof/WellFormed.lean ====
section
/-! DEFINITION. Which operations carry operands in the range R93 and the operation table give them. The block answers
the others too, with `ST_PARAM` (R97); nothing here restricts what the machine runs. -/

namespace Sys2Proof

/-- `payload` of `ENCODE`: length 0 to `PAYLOAD_MAX` (R93, R121). -/
def Params.payloadFits (P : Params) (payload : List Byte) : Bool :=
  match P.payloadMax with
  | none => true
  | some m => payload.length ≤ m

/-- `K` of `RB_INIT`: at least 2 (R10, R181). -/
def nodeCountOk (k : Nat) : Bool := 2 ≤ k

/-- The operands of `i` are in range for the parameters `P` (R93). -/
def Instr.wellFormedFor (P : Params) : Instr → Bool
  | .gap => true
  | .pulse => true
  | .encode payload => P.payloadFits payload
  | .actInit => true
  | .transmit _ _ => true
  | .cancel => true
  | .actShutdown => true
  | .rbInit k => nodeCountOk k
  | .rbWrite _ => true
  | .rbRead => true
  | .rbSetDone => true
  | .rbGetDone => true
  | .rbFree => true

/-- The operands of `i` are in range for this hardware (R10, R93). -/
def Instr.wellFormed (i : Instr) : Bool := i.wellFormedFor Config.params

end Sys2Proof
end

