-- ==== Sys2Proof/Tests/Slice0.lean ====
section
/-! SUPPORT. The model's own tests. Expected results are the spec's: words from R91 and R99, vectors E and V of
95_test_vectors.md, hand calculation where a comment says so. After them, for each statement with hypotheses, a
witness: concrete states and operands that meet its hypotheses, clause by clause. -/

namespace Sys2Proof.Tests

open Sys2Proof.Machine

/-! ### Helpers -/

/-- The next state, if there is one. -/
def nextOf (o : Host.Outcome State Fault Refusal) : Option State :=
  match o with
  | .next s => some s
  | .fault _ => none
  | .refused _ => none

/-- The last response of the next state. -/
def reply (o : Host.Outcome State Fault Refusal) : Option (Port × Response) :=
  (nextOf o).bind fun t => t.env.responses.getLast?

/-- What `f` reads in the next state. -/
def after {α : Type} (f : State → α) (o : Host.Outcome State Fault Refusal) : Option α := (nextOf o).map f

def d0 : Block := ⟨0⟩
def d1 : Block := ⟨1⟩
def d2 : Block := ⟨2⟩
def h0 : Handle := ⟨7⟩

def txOnly (tx : TxState) : State := State.reset.withTx tx
def rxOnly (rx : RxState) : State := State.reset.withRx rx

/-- An open Actuator and nothing encoded. -/
def opened : TxState := { TxState.reset with actState := .opened, actHandle := some h0 }

/-- `ENCODE [170]` accepted, the Actuator open. -/
def loaded : TxState := storePayload Config.params [170] opened

/-- `ENCODE [170]` accepted, the Actuator closed. -/
def loadedClosed : TxState := storePayload Config.params [170] TxState.reset

/-- `ENCODE []` accepted, the Actuator open. -/
def loadedEmpty : TxState := storePayload Config.params [] opened

/-- The run of `[170]` with `T = 5`, `G = 3` before the bit of index `i`, at scheduled time `t`. -/
def running (i t : Nat) : TxState := { loaded with txState := .run, txT := 5, txG := 3, bitIdx := i, txTime := t }

/-- The Actuator has one answer to `pulse()` ready. -/
def withPulse (r : PulseAnswer) (s : State) : State := s.withEnv { s.env with pulseAnswers := [r] }

/-- The Actuator has one answer to `initialize()` ready. -/
def withInit (r : InitAnswer) (s : State) : State := s.withEnv { s.env with initAnswers := [r] }

/-- A ring of two slots. -/
def ring2 (slots : List (Slot Block)) (wr rd : Nat) (done : Bool) (w r : List Block) : RxState where
  rbState := .built
  rbK := 2
  slots := slots
  rbWr := wr
  rbRd := rd
  rbDone := done
  rbWseq := w
  rbRseq := r

/-- As V70, V72, V73, V75 and V77 begin. -/
def ringEmpty0 : RxState := ring2 [.empty, .empty] 0 0 false [] []
def ringOne : RxState := ring2 [.full d0, .empty] 1 0 false [d0] []
def ringFull2 : RxState := ring2 [.full d0, .full d1] 0 0 false [d0, d1] []
def ringWrapped : RxState := ring2 [.full d2, .full d1] 1 1 false [d0, d1, d2] [d0]
def ringEmptied : RxState := ring2 [.empty, .empty] 1 1 false [d0, d1, d2] [d0, d1, d2]

/-- The completion flag set. -/
def doneRing (rx : RxState) : RxState := { rx with rbDone := true }

/-! ### WellFormed: an ill-formed term for each check -/

/-- V12: a bound of 4 and a payload of 5 bytes. -/
theorem test_wellFormed_refuses_long_payload :
    (Instr.encode [1, 2, 3, 4, 5]).wellFormedFor { preamble := Config.preamble, payloadMax := some 4 } = false ∧
    (Instr.encode [1, 2, 3, 4]).wellFormedFor { preamble := Config.preamble, payloadMax := some 4 } = true ∧
    (Instr.encode [1, 2, 3, 4, 5]).wellFormed = true := by decide

/-- V41, V42. -/
theorem test_wellFormed_refuses_small_ring :
    (Instr.rbInit 0).wellFormed = false ∧ (Instr.rbInit 1).wellFormed = false ∧ (Instr.rbInit 2).wellFormed = true := by
  decide

/-- V12: the machine answers `ST_PARAM`. -/
theorem test_encode_param :
    reply (execEncodeWith { preamble := Config.preamble, payloadMax := some 4 } [1, 2, 3, 4, 5] State.reset) =
      some (.txh, ⟨.param, .none, .none⟩) := by decide

/-! ### Decoding: the words of R91 and R99 -/

/-- Operands with every lane in use. -/
def lanes : Operands := { payload := [170], pulseTimeout := 5, gapDuration := 3, k := 2, d := d1 }

theorem test_decode_symbols : decode (.sym1 0b0) = .ok .gap ∧ decode (.sym1 0b1) = .ok .pulse := by decide

theorem test_decode_tx_commands :
    decode (.cmd4 .txh 0b0001 lanes) = .ok (.encode [170]) ∧
    decode (.cmd4 .txh 0b0010 lanes) = .ok .actInit ∧
    decode (.cmd4 .txh 0b0011 lanes) = .ok (.transmit 5 3) ∧
    decode (.cmd4 .can 0b0100 lanes) = .ok .cancel ∧
    decode (.cmd4 .txh 0b0101 lanes) = .ok .actShutdown := by decide

theorem test_decode_rx_commands :
    decode (.cmd4 .rxh 0b1000 lanes) = .ok (.rbInit 2) ∧
    decode (.cmd4 .prd 0b1001 lanes) = .ok (.rbWrite d1) ∧
    decode (.cmd4 .cns 0b1010 lanes) = .ok .rbRead ∧
    decode (.cmd4 .prd 0b1011 lanes) = .ok .rbSetDone ∧
    decode (.cmd4 .cns 0b1100 lanes) = .ok .rbGetDone ∧
    decode (.cmd4 .rxh 0b1101 lanes) = .ok .rbFree := by decide

/-- V90 to V94. -/
theorem test_decode_reserved :
    [decode (.cmd4 .txh 0b0000 lanes), decode (.cmd4 .txh 0b0110 lanes), decode (.cmd4 .txh 0b0111 lanes),
      decode (.cmd4 .rxh 0b1110 lanes), decode (.cmd4 .rxh 0b1111 lanes)] =
      List.replicate 5 (.rejected .reservedCode) := by decide

/-- V95 to V98. -/
theorem test_decode_wrong_port :
    [decode (.cmd4 .cns 0b1001 lanes), decode (.cmd4 .prd 0b1010 lanes), decode (.cmd4 .txh 0b0100 lanes),
      decode (.cmd4 .txh 0b1000 lanes)] = List.replicate 4 (.rejected .wrongPort) := by decide

/-- V90, V95: the step answers `ST_ILLEGAL`. -/
theorem test_step_illegal :
    reply (step (State.reset.withTurns [.cmd .txh 0b0000 lanes])) = some (.txh, ⟨.illegal, .none, .none⟩) ∧
    reply (step (State.reset.withTurns [.cmd .cns 0b1001 lanes])) = some (.cns, ⟨.illegal, .none, .none⟩) := by decide

/-- The numbers of the table (log 7). -/
theorem test_table_words :
    [decodeTableWord 8 0x0, decodeTableWord 8 0x1, decodeTableWord 4 0x1, decodeTableWord 8 0x2, decodeTableWord 8 0x4,
      decodeTableWord 8 0x8, decodeTableWord 8 0xD, decodeTableWord 8 0xE] =
      [some .gap, some .pulse, some (.encode []), some .actInit, some .cancel, some (.rbInit 0), some .rbFree, none] := by
  decide

/-- A symbol placed in the reset state is what the next step runs: the run of one bit ends. -/
theorem test_withFetchWord_gap :
    after (fun t => (t.tx.txEv, t.tx.bitIdx, t.tx.txStatus)) (step (State.reset.withFetchWord 8 0)) =
      some ([.gap 0 0], 1, .done) := by decide

theorem test_withFetchWord_command :
    reply (step (State.reset.withFetchWord 8 0x4)) = some (.can, ⟨.ok, .none, .none⟩) := by decide

/-! ### One step of each operation -/

/-- V4, E2. -/
theorem test_encode_170 :
    after (fun t => (t.tx.bits, t.tx.nbits, t.tx.bitsValid)) (exec (.encode [170]) State.reset) =
      some ([1, 1, 1, 1, 1, 0, 0, 1, 1, 0, 1, 0, 1, 1, 0, 1, 0, 1, 0, 1, 0], 21, true) := by decide

/-- V5: bytes in payload order, bit 7 first. -/
theorem test_encode_order :
    after (fun t => (t.tx.bits.drop 13, t.tx.paylen)) (exec (.encode [1, 2]) State.reset) =
      some ([0, 0, 0, 0, 0, 0, 0, 1, 0, 0, 0, 0, 0, 0, 1, 0], 2) := by decide

/-- V13, V14, V15. -/
theorem test_decode_payload :
    decodePayload 13 (encodePayload Config.preamble [1, 2]) = some [1, 2] ∧
    decodePayload 13 (List.replicate 13 0 ++ [1, 0, 1, 0, 1, 0, 1, 0]) = some [170] ∧
    decodePayload 13 (List.replicate 20 0) = none := by decide

/-- The `bit_at` values under V5. -/
theorem test_bit_at :
    [0, 5, 12, 13, 20, 21, 27, 28, 29].map (bitAt Config.preamble [1, 2]) =
      [some 1, some 0, some 1, some 0, some 1, some 0, some 1, some 0, none] := by decide

/-- V20. -/
theorem test_actInit_ok :
    after (fun t => (t.tx.actState, t.tx.actHandle, t.tx.txEv)) (exec .actInit (withInit (.ok h0) State.reset)) =
      some (.opened, some h0, [.init (.ok h0)]) := by decide

/-- V21, V24. -/
theorem test_actInit_fatal :
    reply (exec .actInit (withInit (.err .notFound) State.reset)) = some (.txh, ⟨.deverr, .notFound, .none⟩) ∧
    after (fun t => (t.tx.fatalErr, t.tx.txStatus, t.tx.actState, t.tx.txEv)) (exec .actInit (txOnly opened)) =
      some (.alreadyInitialized, .aborted, .opened, []) := by decide

/-- V30. -/
theorem test_transmit_starts :
    after (fun t => (t.tx.txState, t.tx.txT, t.tx.txG, t.tx.bitIdx)) (exec (.transmit 5 3) (txOnly loaded)) =
      some (.run, 5, 3, 0) := by decide

/-- V31, V32, V33. -/
theorem test_transmit_refused :
    [reply (exec (.transmit 5 3) (txOnly opened)), reply (exec (.transmit 5 3) (txOnly loadedClosed)),
      reply (exec (.transmit 1 1) (txOnly (running 3 15)))] =
      [some (.txh, ⟨.state, .none, .none⟩), some (.txh, ⟨.state, .none, .none⟩),
        some (.txh, ⟨.busy, .none, .none⟩)] := by decide

/-- V36. -/
theorem test_pulse_ok :
    after (fun t => (t.tx.txEv, t.tx.txTime, t.tx.bitIdx, t.tx.failCnt))
      (step (withPulse .ok (txOnly (running 0 0)))) = some ([.pulse 0 5 .ok], 5, 1, 0) := by decide

/-- V37. -/
theorem test_pulse_timeout :
    after (fun t => (t.tx.txEv, t.tx.txTime, t.tx.bitIdx, t.tx.failCnt, t.tx.lastErr.code, t.tx.txState))
      (step (withPulse (.err .timeout) (txOnly (running 2 10)))) =
      some ([.pulse 10 5 (.err .timeout)], 15, 3, 1, 4, .run) := by decide

/-- V38. -/
theorem test_gap :
    after (fun t => (t.tx.txEv, t.tx.txTime, t.tx.bitIdx)) (step (txOnly (running 5 25))) =
      some ([.gap 25 3], 28, 6) := by decide

/-- V39. -/
theorem test_gap_last :
    after (fun t => (t.tx.txTime, t.tx.bitIdx, t.tx.txState, t.tx.txStatus, t.tx.bitsValid, t.tx.actState))
      (step (txOnly (running 20 86))) = some (89, 21, .idle, .done, false, .opened) := by decide

/-- V60. -/
theorem test_cancel_run :
    after (fun t => (t.tx.actState, t.tx.txStatus, t.tx.bitsValid, t.tx.bitIdx))
      (exec .cancel (txOnly (running 7 31))) = some (.closed, .cancelled, false, 7) ∧
    after (·.env.actCalls) (exec .cancel (txOnly (running 7 31))) = some [.shutdown (some h0)] := by decide

/-- V61, V62. -/
theorem test_cancel_idle :
    after (fun t => (t.tx.actState, t.tx.bitsValid, t.tx.txStatus)) (exec .cancel (txOnly loaded)) =
      some (.closed, true, .none) ∧
    after (fun t => t.tx.txEv) (exec .cancel State.reset) = some [] := by decide

/-- V27. -/
theorem test_actShutdown :
    after (fun t => (t.tx.actState, t.tx.actHandle, t.tx.txEv)) (exec .actShutdown (txOnly opened)) =
      some (.closed, none, [.shutdown]) := by decide

/-- V28, V29. -/
theorem test_actShutdown_refused :
    reply (exec .actShutdown State.reset) = some (.txh, ⟨.state, .none, .none⟩) ∧
    reply (exec .actShutdown (txOnly (running 0 0))) = some (.txh, ⟨.busy, .none, .none⟩) := by decide

/-- V40. -/
theorem test_rbInit : after (·.rx) (exec (.rbInit 2) State.reset) = some ringEmpty0 := by decide

/-- V41, V44. -/
theorem test_rbInit_refused :
    reply (exec (.rbInit 1) State.reset) = some (.rxh, ⟨.param, .none, .none⟩) ∧
    reply (exec (.rbInit 1) (rxOnly ringEmpty0)) = some (.rxh, ⟨.state, .none, .none⟩) := by decide

/-- V72: the cursor wraps. -/
theorem test_rbWrite : after (·.rx) (exec (.rbWrite d1) (rxOnly ringOne)) = some ringFull2 := by decide

/-- V73, V84. -/
theorem test_rbWrite_refused :
    reply (exec (.rbWrite d2) (rxOnly ringFull2)) = some (.prd, ⟨.wait, .none, .none⟩) ∧
    reply (exec (.rbWrite d2) (rxOnly (doneRing ringOne))) = some (.prd, ⟨.state, .none, .none⟩) := by decide

/-- V74, V76: the value, the marker, the wrapped cursor. -/
theorem test_rbRead :
    reply (exec .rbRead (rxOnly ringFull2)) = some (.cns, ⟨.ok, .none, .block d0⟩) ∧
    after (fun t => (t.rx.slots, t.rx.rbRd)) (exec .rbRead (rxOnly ringWrapped)) =
      some ([.full d2, .empty], 0) := by decide

/-- V70, V86. -/
theorem test_rbRead_waits :
    reply (exec .rbRead (rxOnly ringEmpty0)) = some (.cns, ⟨.wait, .none, .none⟩) ∧
    reply (exec .rbRead (rxOnly (doneRing ringEmptied))) = some (.cns, ⟨.wait, .none, .none⟩) := by decide

/-- V81, V82. -/
theorem test_rbSetDone :
    after (·.rx) (exec .rbSetDone (rxOnly ringOne)) = some (doneRing ringOne) ∧
    after (·.rx) (exec .rbSetDone (rxOnly (doneRing ringOne))) = some (doneRing ringOne) := by decide

/-- V80, V83. -/
theorem test_rbGetDone :
    reply (exec .rbGetDone (rxOnly ringOne)) = some (.cns, ⟨.ok, .none, .flag false⟩) ∧
    reply (exec .rbGetDone (rxOnly (doneRing ringOne))) = some (.cns, ⟨.ok, .none, .flag true⟩) := by decide

/-- As V47. -/
theorem test_rbFree : after (·.rx) (exec .rbFree (rxOnly (doneRing ringWrapped))) = some RxState.reset := by decide

/-- V46. -/
theorem test_unbuilt_refused :
    [exec (.rbWrite d0) State.reset, exec .rbRead State.reset, exec .rbSetDone State.reset, exec .rbGetDone State.reset,
      exec .rbFree State.reset].map (fun o => (reply o).map fun r => r.2.st) = List.replicate 5 (some .state) := by
  decide

/-- V101, V102: one path is reset, the other is untouched, and the Actuator is not called. -/
theorem test_resets :
    after (fun t => (t.tx, t.rx, t.env.actCalls))
      (step ((State.withRx (txOnly (running 4 20)) ringWrapped).withTurns [.rstTx])) =
      some (TxState.reset, ringWrapped, []) ∧
    after (fun t => (t.tx, t.rx))
      (step ((State.withRx (txOnly (running 4 20)) ringWrapped).withTurns [.rstRx])) =
      some (running 4 20, RxState.reset) := by decide

/-- P4, steps 10 to 14: the two last items, then end of stream. -/
theorem test_drain :
    (drain 3 (rxOnly (doneRing ringWrapped))).map (fun x => x.2) = some ([d1, d2], .endOfStream) := by decide

/-- P5, steps 4 and 5: the second look finds the item. -/
theorem test_second_look :
    (readWait 2 .check (rxOnly (doneRing ringOne))).map (fun x => x.2) = some (.data d0) := by decide

/-- The session of E9: 256 * 13 samples at 1024000 samples per second (the center frequency plays no part). -/
noncomputable def sessionE9 : SourceParams := ⟨256 * 13, 1024000, 0, by norm_num, by norm_num⟩

/-- E9: 3.25 ms. -/
theorem test_block_duration : blockDuration sessionE9 = 13 / 4 := by norm_num [blockDuration, sessionE9]

/-- The producer's policies and the two kinds of the SampleSource, by hand from R224, R98 and R229. -/
theorem test_producer_errors (h : SourceHandle) :
    afterReadError .skip h = .loop h ∧ afterReadError .abort h = .finish ∧
    ConfigureAnswer.configError.kind.code = 8 ∧ (ReadAnswer.readError : ReadAnswer 3).kind.code = 9 :=
  ⟨rfl, rfl, rfl, rfl⟩

/-- A block of two samples from offset 10, by hand from R225: `|3 + 4i| = 5` at 10, `0` at `10 + 1 * 4 / 2`. -/
theorem test_blockOutput : blockOutput 10 ⟨[⟨3, 4⟩, 0], 4, by simp⟩ = [(10, 5), (12, 0)] := by
  have h : ‖(⟨3, 4⟩ : ℂ)‖ = 5 := by
    rw [Complex.norm_eq_sqrt_sq_add_sq, show ((3 : ℝ) ^ 2 + 4 ^ 2) = 5 ^ 2 by norm_num]
    exact Real.sqrt_sq (by norm_num)
  simp [blockOutput, blockTimes, h, List.range_succ]
  norm_num

/-- R252(a): the `CANCEL` before the second `STEP` of its cycle. -/
theorem test_cycleOrder :
    cycleOrder [.rstTx, .cmd .can 0b0100 lanes, .sched, .sched, .cmd .txh 0b0010 lanes] =
      [.sched, .cmd .can 0b0100 lanes, .rstTx, .sched, .cmd .txh 0b0010 lanes] := by decide

/-- V12 through one transition: the bound is an argument (R10). -/
theorem test_nextTransition_param :
    reply (nextTransition { preamble := Config.preamble, payloadMax := some 0 }
      (State.reset.withTurns [.cmd .txh 0b0001 lanes])) = some (.txh, ⟨.param, .none, .none⟩) := by decide

/-! ### States that keep the invariants -/

theorem inv_running_first : TxInv Config.params (running 0 0) :=
  ⟨rfl, rfl, by decide, by decide, by decide, by decide, by decide⟩

theorem inv_running_7 : TxInv Config.params (running 7 31) :=
  ⟨rfl, rfl, by decide, by decide, by decide, by decide, by decide⟩

theorem inv_running_last : TxInv Config.params (running 20 86) :=
  ⟨rfl, rfl, by decide, by decide, by decide, by decide, by decide⟩

theorem inv_loaded : TxInv Config.params loaded :=
  ⟨rfl, rfl, by decide, by decide, by decide, by decide, by decide⟩

theorem inv_loadedEmpty : TxInv Config.params loadedEmpty :=
  ⟨rfl, rfl, by decide, by decide, by decide, by decide, by decide⟩

theorem inv_opened : TxInv Config.params opened :=
  ⟨rfl, rfl, by decide, by decide, by decide, by decide, by decide⟩

theorem inv_ringEmpty0 : RingInv ringEmpty0 :=
  ⟨by decide, by decide, by decide, by decide, by decide, by decide, by decide, by decide, by decide⟩

theorem inv_ringOne : RingInv ringOne :=
  ⟨by decide, by decide, by decide, by decide, by decide, by decide, by decide, by decide, by decide⟩

theorem inv_ringFull2 : RingInv ringFull2 :=
  ⟨by decide, by decide, by decide, by decide, by decide, by decide, by decide, by decide, by decide⟩

theorem inv_ringWrapped : RingInv ringWrapped :=
  ⟨by decide, by decide, by decide, by decide, by decide, by decide, by decide, by decide, by decide⟩

theorem inv_doneWrapped : RingInv (doneRing ringWrapped) :=
  ⟨by decide, by decide, by decide, by decide, by decide, by decide, by decide, by decide, by decide⟩

theorem inv_ringEmptied : RingInv ringEmptied :=
  ⟨by decide, by decide, by decide, by decide, by decide, by decide, by decide, by decide, by decide⟩

theorem inv_doneEmptied : RingInv (doneRing ringEmptied) :=
  ⟨by decide, by decide, by decide, by decide, by decide, by decide, by decide, by decide, by decide⟩

/-! ### Witnesses: words and operations -/

theorem wit_DecodeEncodeRoundTrip :
    decode (.sym1 1) = .ok .pulse ∧ decode (.cmd4 .prd 0b1001 lanes) = .ok (.rbWrite d1) ∧
    encode (.rbWrite d1) = encode (.rbWrite d1) := by decide

theorem wit_IllegalCommandsAreRefused :
    ((State.reset.withTurns [.cmd .txh 0b0000 lanes]).env.turns = [.cmd .txh 0b0000 lanes] ∧
      0b0000#4 ∈ [0b0000#4, 0b0110#4, 0b0111#4, 0b1110#4, 0b1111#4] ∧
      0b1111#4 ∈ [0b0000#4, 0b0110#4, 0b0111#4, 0b1110#4, 0b1111#4]) ∧
    ((State.reset.withTurns [.cmd .cns 0b1001 lanes]).env.turns = [.cmd .cns 0b1001 lanes] ∧
      decode (.cmd4 .prd 0b1001 lanes) = .ok (.rbWrite d1) ∧ Port.cns ≠ Port.prd) := by decide

theorem wit_StepRunsTheDecodedOperation :
    ((State.reset.withTurns [.cmd .can 0b0100 lanes]).env.turns = [.cmd .can 0b0100 lanes] ∧
      decode (.cmd4 .can 0b0100 lanes) = .ok .cancel) ∧
    ((txOnly (running 0 0)).tx.txState = .run ∧ (txOnly (running 0 0)).env.turns = [] ∧
      (running 0 0).bits[(running 0 0).bitIdx]? = some 1 ∧ decode (.sym1 1) = .ok .pulse) ∧
    ((running 20 86).txState = .run ∧ (running 20 86).bits[(running 20 86).bitIdx]? = some 0 ∧
      decode (.sym1 0) = .ok .gap ∧ (running 20 86).bitIdx + 1 = (running 20 86).nbits) := by decide

theorem wit_IdleSchedulerDoesNothing :
    (State.reset.tx.txState = .idle ∧ State.reset.env.turns = []) ∧
    ((State.reset.withTurns [.sched]).tx.txState = .idle ∧ (State.reset.withTurns [.sched]).env.turns = [.sched]) := by
  decide

theorem wit_EveryCommandAnswersOnce :
    ((nextOf (exec .gap (txOnly (running 5 25)))).isSome ∧ Instr.gap.port = none) ∧
    (reply (exec (.encode []) State.reset) = some (.txh, ⟨.ok, .none, .bits Config.preamble⟩) ∧
      (Instr.encode []).port = some .txh) ∧
    reply (exec .actInit (txOnly opened)) = some (.txh, ⟨.deverr, .alreadyInitialized, .none⟩) ∧
    reply (exec .rbRead (rxOnly ringOne)) = some (.cns, ⟨.ok, .none, .block d0⟩) ∧
    reply (exec .rbGetDone (rxOnly ringOne)) = some (.cns, ⟨.ok, .none, .flag false⟩) := by decide

theorem wit_RefusalsChangeNothing :
    reply (exec .rbRead (rxOnly ringEmpty0)) = some (.cns, ⟨.wait, .none, .none⟩) ∧
    reply (exec (.encode []) (txOnly (running 0 0))) = some (.txh, ⟨.busy, .none, .none⟩) ∧
    reply (exec .actShutdown State.reset) = some (.txh, ⟨.state, .none, .none⟩) ∧
    reply (exec (.rbInit 1) State.reset) = some (.rxh, ⟨.param, .none, .none⟩) ∧
    after (·.env.responses) (exec (.rbInit 1) State.reset) =
      some (State.reset.env.responses ++ [(.rxh, ⟨.param, .none, .none⟩)]) := by decide

theorem wit_PathsShareNothing :
    (isTxOp .cancel = true ∧ (nextOf (exec .cancel (txOnly loaded))).isSome) ∧
    (isTxOp .rbRead = false ∧ (nextOf (exec .rbRead (rxOnly ringOne))).isSome) := by decide

theorem wit_PathsCommute :
    isTxOp .cancel = true ∧ isTxOp .rbRead = false ∧
    ((nextOf (exec .cancel ((txOnly loaded).withRx ringOne))).bind fun u => nextOf (exec .rbRead u)).isSome ∧
    ((nextOf (exec .rbRead ((txOnly loaded).withRx ringOne))).bind fun u => nextOf (exec .cancel u)).isSome := by
  decide

/-! ### Witnesses: bits, the bit-encoder -/

theorem wit_ByteAndBitsAreInverse :
    ([1, 0, 1, 0, 1, 0, 1, 0] : List Bit).length = 8 ∧ (0 : Nat) < 8 ∧ (7 : Nat) < 8 := by decide

theorem wit_PayloadRoundTrip :
    Config.preamble.length = 13 + 8 * 0 ∧ (encodePayload Config.preamble [170]).length = 13 + 8 * 1 := by decide

theorem wit_EncodedPrefixAndInjectivity :
    encodePayload Config.preamble [170] = encodePayload Config.preamble [170] := rfl

theorem wit_BitViewAgrees :
    (TxInv Config.params loaded ∧ loaded.bitsValid = true ∧ 0 < loaded.nbits ∧ 20 < loaded.nbits) ∧
    (loaded.pay[0]? = some 170 ∧ (0 : Nat) < 8 ∧ (7 : Nat) < 8) := ⟨⟨inv_loaded, by decide⟩, by decide⟩

theorem wit_EncodeOperation :
    (txOnly (running 0 0)).tx.txState = .run ∧
    (State.reset.tx.txState = .idle ∧
      ({ preamble := Config.preamble, payloadMax := some 4 } : Params).payloadMax = some 4 ∧
      4 < ([1, 2, 3, 4, 5] : List Byte).length) ∧
    (State.reset.tx.txState = .idle ∧ ([1, 2, 3, 4] : List Byte).length ≤ 4) := by decide

theorem wit_EncodeMayLeaveBitIdxAboveLength :
    (txOnly { loaded with bitIdx := 21, bitsValid := false }).tx.txState = .idle ∧
    13 + 8 * ([] : List Byte).length < (txOnly { loaded with bitIdx := 21, bitsValid := false }).tx.bitIdx := by decide

/-! ### Witnesses: the pulse-scheduler -/

theorem wit_ActInitOperation :
    (txOnly (running 0 0)).tx.txState = .run ∧
    ((txOnly opened).tx.txState = .idle ∧ (txOnly opened).tx.actState = .opened) ∧
    ((withInit (.ok h0) State.reset).tx.txState = .idle ∧ (withInit (.ok h0) State.reset).tx.actState = .closed ∧
      (withInit (.ok h0) State.reset).env.nextInit = .ok h0) ∧
    (withInit (.err .accessDenied) State.reset).env.nextInit = .err .accessDenied := by decide

theorem wit_FatalErrorStartsNothing :
    (reply (exec .actInit (withInit (.err .notFound) State.reset)) = some (.txh, ⟨.deverr, .notFound, .none⟩) ∧
      after (·.tx.actState) (exec .actInit (withInit (.err .notFound) State.reset)) = some .closed) ∧
    after (·.env.responses) (exec .actInit (txOnly opened)) =
      some ((txOnly opened).env.responses ++ [(.txh, ⟨.deverr, .alreadyInitialized, .none⟩)]) := by decide

/-- A BitSequence of no bits (R143 names the case; R124 lets no `ENCODE` make it with this preamble). -/
def noBits : TxState := { opened with bitsValid := true }

/-- A run with a closed Actuator, which R52(d) rules out. -/
def runClosed : TxState := { running 7 31 with actState := .closed, actHandle := none }

theorem wit_TransmitOperation :
    (running 0 0).txState = .run ∧
    (opened.txState = .idle ∧ opened.bitsValid = false) ∧
    (loadedClosed.txState = .idle ∧ loadedClosed.actState = .closed) ∧
    (noBits.txState = .idle ∧ noBits.bitsValid = true ∧ noBits.actState = .opened ∧ noBits.nbits = 0) ∧
    (loaded.txState = .idle ∧ loaded.bitsValid = true ∧ loaded.actState = .opened ∧ loaded.nbits ≠ 0) := by decide

theorem wit_PulseOperation :
    (withPulse .ok (txOnly (running 0 0))).env.nextPulse = .ok ∧
    (withPulse (.err .otherDeviceError) (txOnly (running 0 0))).env.nextPulse = .err .otherDeviceError := by decide

theorem wit_CancelOperation :
    ((running 7 31).actState = .opened ∧ (running 7 31).txState = .run) ∧
    (loaded.actState = .opened ∧ loaded.txState = .idle) ∧
    (runClosed.actState = .closed ∧ runClosed.txState = .run) ∧
    (State.reset.tx.actState = .closed ∧ State.reset.tx.txState = .idle) := by decide

theorem wit_ActShutdownOperation :
    (running 0 0).txState = .run ∧ (loadedClosed.txState = .idle ∧ loadedClosed.actState = .closed) ∧
    (opened.txState = .idle ∧ opened.actState = .opened) := by decide

theorem wit_BitIdxHasThreeSuccessors :
    (nextOf (step (txOnly (running 5 25)))).isSome ∧
    (nextOf (step ((txOnly loaded).withTurns [.cmd .txh 0b0011 lanes]))).isSome := by decide

theorem wit_RunStartsAndEndsOnlySo :
    (loaded.txState = .idle ∧
      after (·.tx.txState) (step ((txOnly loaded).withTurns [.cmd .txh 0b0011 lanes])) = some .run) ∧
    ((running 20 86).txState = .run ∧ after (·.tx.txState) (step (txOnly (running 20 86))) = some .idle) ∧
    after (·.tx.txState) (step ((txOnly (running 7 31)).withTurns [.cmd .can 0b0100 lanes])) = some .idle ∧
    after (·.tx.txState) (step ((txOnly (running 7 31)).withTurns [.rstTx])) = some .idle := by decide

theorem wit_RunSeesOneBitSequence :
    (nextOf (step ((txOnly (running 7 31)).withTurns [.cmd .txh 0b0001 lanes]))).isSome ∧
    (running 7 31).txState = .run ∧
    ∀ ts, ((txOnly (running 7 31)).withTurns [.cmd .txh 0b0001 lanes]).env.turns ≠ .rstTx :: ts :=
  ⟨by decide, by decide, by simp [State.withTurns, State.withEnv]⟩

theorem wit_EventStreamOnlyGrows :
    (nextOf (step (txOnly (running 5 25)))).isSome ∧ ∀ ts, (txOnly (running 5 25)).env.turns ≠ .rstTx :: ts :=
  ⟨by decide, by simp [txOnly, State.reset, Env.reset, State.withTx]⟩

theorem wit_NoRunWithoutNewEncode :
    ((running 7 31).txState = .run ∧ (nextOf (exec .cancel (txOnly (running 7 31)))).isSome) ∧
    ((nextOf (step ((txOnly opened).withTurns [.rstTx]))).isSome ∧
      ((txOnly opened).withTurns [.rstTx]).env.turns = .rstTx :: []) ∧
    ((nextOf (step ((txOnly opened).withTurns [.cmd .txh 0b0011 lanes]))).isSome ∧ opened.txState = .idle ∧
      opened.bitsValid = false ∧
      ∀ a ts, ((txOnly opened).withTurns [.cmd .txh 0b0011 lanes]).env.turns ≠ .cmd .txh 0b0001 a :: ts) :=
  ⟨by decide, by decide, by decide, by decide, by decide, by simp [State.withTurns, State.withEnv]⟩

theorem wit_ActuatorCallsCarryTheHandle :
    TxInv Config.params (running 0 0) ∧ after (·.env.actCalls) (step (txOnly (running 0 0))) = some [.pulse (some h0) 5] ∧
    TxInv Config.params opened ∧
    after (·.env.actCalls) (step ((txOnly opened).withTurns [.cmd .txh 0b0101 lanes])) = some [.shutdown (some h0)] :=
  ⟨inv_running_first, by decide, inv_opened, by decide⟩

/-- Thirteen bits, and two commands of other agents between them. -/
def mixedTurns : List Turn :=
  List.replicate 6 .sched ++ [.cmd .rxh 0b1000 lanes, .cmd .txh 0b0001 lanes] ++ List.replicate 6 .sched

theorem wit_RunEmitsItsEventStream :
    Sound ((txOnly loadedEmpty).withTurns (mixedTurns ++ .sched :: [.rstRx])) ∧
    (loadedEmpty.txState = .idle ∧ loadedEmpty.bitsValid = true ∧ loadedEmpty.actState = .opened) ∧
    after (·.env.turns) (exec (.transmit 2 7) ((txOnly loadedEmpty).withTurns (mixedTurns ++ .sched :: [.rstRx]))) =
      some (mixedTurns ++ .sched :: [.rstRx]) ∧
    mixedTurns.count .sched + 1 = loadedEmpty.nbits ∧
    (∀ u ∈ mixedTurns, u ≠ .rstTx ∧ ∀ op a, u ≠ .cmd .can op a) :=
  ⟨⟨inv_loadedEmpty, rfl⟩, by decide, by decide, by decide, by simp [mixedTurns, lanes]⟩

theorem wit_SendCompletes :
    Sound (txOnly opened) ∧ (txOnly opened).tx.txState = .idle ∧ (txOnly opened).tx.actState = .opened :=
  ⟨⟨inv_opened, rfl⟩, by decide⟩

theorem wit_StepBeforeCancelInOneCycle :
    (TxInv Config.params (running 7 31) ∧ (running 7 31).txState = .run ∧ (running 7 31).bitIdx + 1 ≠ 21) ∧
    (TxInv Config.params (running 20 86) ∧ (running 20 86).txState = .run ∧ (running 20 86).bitIdx + 1 = 21) ∧
    ((txOnly (running 20 86)).withTurns [.sched, .cmd .can 0b0100 lanes]).env.turns =
      cycleOrder [.cmd .can 0b0100 lanes, .sched] :=
  ⟨⟨inv_running_7, by decide⟩, ⟨inv_running_last, by decide⟩, rfl⟩

/-! ### Witnesses: the ring buffer -/

theorem wit_RbInitOperation :
    ringEmpty0.rbState = .built ∧ (State.reset.rx.rbState = .unbuilt ∧ (1 : Nat) < 2 ∧ 2 ≤ (2 : Nat)) := by decide

theorem wit_RbWriteOperation :
    State.reset.rx.rbState = .unbuilt ∧ (doneRing ringOne).rbDone = true ∧
    (ringFull2.rbState = .built ∧ ringFull2.rbDone = false ∧ ringFull2.slots[ringFull2.rbWr]? = some (.full d0)) ∧
    (ringOne.rbState = .built ∧ ringOne.rbDone = false ∧ ringOne.slots[ringOne.rbWr]? = some .empty) := by decide

theorem wit_RbReadOperation :
    State.reset.rx.rbState = .unbuilt ∧
    (ringEmpty0.rbState = .built ∧ ringEmpty0.slots[ringEmpty0.rbRd]? = some .empty) ∧
    (ringWrapped.rbState = .built ∧ ringWrapped.slots[ringWrapped.rbRd]? = some ⟨true, some d1⟩) := by decide

theorem wit_RbSetDoneOperation : State.reset.rx.rbState = .unbuilt ∧ ringOne.rbState = .built := by decide

theorem wit_RbGetDoneOperation : State.reset.rx.rbState = .unbuilt ∧ ringFull2.rbState = .built := by decide

theorem wit_RbFreeOperation : State.reset.rx.rbState = .unbuilt ∧ ringWrapped.rbState = .built := by decide

theorem wit_RingInvariantIsAQueue : RingInv ringWrapped := inv_ringWrapped

theorem wit_FullRingMakesWritesWait :
    (RingInv ringFull2 ∧ ringFull2.rbState = .built ∧ ringFull2.rbDone = false ∧ occ ringFull2 = ringFull2.rbK) ∧
    (RingInv ringOne ∧ ringOne.rbState = .built ∧ ringOne.rbDone = false ∧ occ ringOne < ringOne.rbK) :=
  ⟨⟨inv_ringFull2, by decide⟩, inv_ringOne, by decide⟩

theorem wit_EmptyRingMakesReadsWait :
    (RingInv ringEmptied ∧ ringEmptied.rbState = .built ∧ occ ringEmptied = 0) ∧
    (RingInv ringOne ∧ ringOne.rbState = .built ∧ 0 < occ ringOne) :=
  ⟨⟨inv_ringEmptied, by decide⟩, inv_ringOne, by decide⟩

theorem wit_SlotStateMachine :
    (after (fun t => markerAt t.rx 1) (step ((rxOnly ringOne).withTurns [.cmd .prd 0b1001 lanes])) = some (some true) ∧
      markerAt ringOne 1 = some false) ∧
    (after (fun t => markerAt t.rx 0) (step ((rxOnly ringOne).withTurns [.cmd .cns 0b1010 lanes])) = some (some false) ∧
      markerAt ringOne 0 = some true) ∧
    reply (step ((rxOnly ringOne).withTurns [.cmd .cns 0b1010 lanes])) = some (.cns, ⟨.ok, .none, .block d0⟩) ∧
    keepsRing (.cmd .prd 0b1001 lanes) = true ∧ keepsRing (.cmd .cns 0b1010 lanes) = true := by decide

theorem sound_running : Sound ((txOnly (running 7 31)).withRx ringWrapped) := ⟨inv_running_7, inv_ringWrapped⟩

theorem wit_RingIsFifo :
    Sound ((txOnly (running 7 31)).withRx ringWrapped) ∧
    (nextOf (Host.Core.run Sys2Proof.core 1 (((txOnly (running 5 25)).withRx ringWrapped)))).isSome :=
  ⟨sound_running, by decide⟩

theorem wit_EmptiedRingIsFresh :
    RingInv ringEmptied ∧ ringEmptied.rbState = .built ∧ ringEmptied.rbRseq.length = ringEmptied.rbWseq.length :=
  ⟨inv_ringEmptied, by decide⟩

theorem wit_LastTwoItemsAreDrained :
    RingInv (doneRing ringWrapped) ∧ (doneRing ringWrapped).rbState = .built ∧ (doneRing ringWrapped).rbDone = true ∧
    (doneRing ringWrapped).rbWseq.length = 3 ∧ 2 ≤ 3 ∧ (doneRing ringWrapped).rbRseq.length = 3 - 2 :=
  ⟨inv_doneWrapped, by decide⟩

theorem wit_CompletionIsFinal :
    (nextOf (step ((rxOnly (doneRing ringEmptied)).withTurns [.cmd .prd 0b1001 lanes]))).isSome ∧
    keepsRing (.cmd .prd 0b1001 lanes) = true ∧ (doneRing ringEmptied).rbState = .built ∧
    (doneRing ringEmptied).rbDone = true ∧ RingInv (doneRing ringEmptied) ∧ occ (doneRing ringEmptied) = 0 :=
  ⟨by decide, by decide, by decide, by decide, inv_doneEmptied, by decide⟩

theorem wit_DrainReturnsEverything :
    Sound (rxOnly (doneRing ringWrapped)) ∧ (doneRing ringWrapped).rbState = .built ∧
    (doneRing ringWrapped).rbDone = true :=
  ⟨⟨⟨rfl, rfl, by decide, by decide, by decide, by decide, by decide⟩, inv_doneWrapped⟩, by decide⟩

theorem wit_EndOfStreamMeansAllRead :
    readReact .lookAgain ⟨.wait, .none, .none⟩ = .answer .endOfStream ∧
    readReact .check ⟨.ok, .none, .flag true⟩ = .go .lookAgain ∧
    readReact .look ⟨.wait, .none, .none⟩ = .go .check ∧
    (readTurn .lookAgain (rxOnly (doneRing ringEmptied))).map (·.2) = some (.answer .endOfStream) ∧
    (doneRing ringEmptied).rbState = .built ∧ Sound (rxOnly (doneRing ringEmptied)) :=
  ⟨by decide, by decide, by decide, by decide, by decide,
    ⟨rfl, rfl, by decide, by decide, by decide, by decide, by decide⟩, inv_doneEmptied⟩

theorem wit_RingIsBlindToBlocks :
    (isTxOp .rbRead = false ∧ Instr.rbRead.port = some .cns ∧
      after (·.env.responses) (exec .rbRead (rxOnly ringOne)) =
        some ((rxOnly ringOne).env.responses ++ [(.cns, ⟨.ok, .none, .block d0⟩)])) ∧
    nextOf (exec .rbRead (rxOnly { ringOne with slots := [] })) = none := by decide

theorem wit_GhostHistoriesAreInert : (nextOf (exec .rbRead (rxOnly ringOne))).isSome := by decide

/-! ### Witnesses: reset, invariants, the environment -/

theorem wit_ResetValuesAndInputs :
    (State.withTurns (txOnly (running 4 20)) [.rstTx]).env.turns = [.rstTx] ∧
    (State.withTurns (rxOnly ringOne) [.rstRx]).env.turns = [.rstRx] := by decide

theorem wit_StepKeepsTxInvariant :
    (TxInv Config.params (running 5 25) ∧ (nextOf (step (txOnly (running 5 25)))).isSome) ∧
    (TxInv ⟨[1, 0], some 4⟩ TxState.reset ∧
      (nextOf (nextTransition ⟨[1, 0], some 4⟩ (State.reset.withTurns [.cmd .txh 0b0001 lanes]))).isSome) :=
  ⟨⟨⟨rfl, rfl, by decide, by decide, by decide, by decide, by decide⟩, by decide⟩,
    ⟨rfl, rfl, by decide, by decide, by decide, by decide, by decide⟩, by decide⟩

theorem wit_StepKeepsRxInvariant :
    (RxInv State.reset.rx ∧ (nextOf (step (State.reset.withTurns [.cmd .rxh 0b1000 lanes]))).isSome) ∧
    (RxInv ringOne ∧ (nextOf (step ((rxOnly ringOne).withTurns [.cmd .prd 0b1001 lanes]))).isSome) :=
  ⟨⟨rfl, by decide⟩, inv_ringOne, by decide⟩

theorem wit_SoundStatesNeverStop : Sound ((txOnly (running 7 31)).withRx ringWrapped) := sound_running

theorem wit_StepKeepsMemoryForm :
    Memory.wf ((txOnly (running 5 25)).withRx ringOne) ∧
    (nextOf (step ((txOnly (running 5 25)).withRx ringOne))).isSome := by decide

/-- Two blocks of two samples, one of E9's duration. -/
noncomputable def twoBlocks : List SampleBlock := [⟨[1, 0], 13 / 4, by simp⟩, ⟨[⟨3, 4⟩, 0], 1, by simp⟩]

/-- A session of two samples a block at 1000 samples per second: 2 ms. -/
noncomputable def session2 : SourceParams := ⟨2, 1000, 0, by norm_num, by norm_num⟩

/-- Blocks of positive duration, the blocks of a session, and a turn in which the producer has read one. -/
theorem wit_TimelineIncreases :
    (∀ b ∈ twoBlocks, 0 < b.duration) ∧
    (∀ b ∈ [SampleBlock.mk [1, 0] 2 (by simp), SampleBlock.mk [⟨3, 4⟩, 0] 2 (by simp)], b.OfSession session2) ∧
    (∃ t h b calls, producerTurn session2 .skip (fun _ => d0) ⟨.configError, false, .ok (.replicate 2 1) 7⟩ (.loop ⟨0⟩)
      State.reset = some (t, .write h b, calls)) ∧
    ∀ (k : SourceHandle) b', ProducerPhase.loop ⟨0⟩ ≠ .write k b' := by
  refine ⟨by norm_num [twoBlocks], ?_, ⟨_, _, _, _, rfl⟩, by simp⟩
  norm_num [SampleBlock.OfSession, blockDuration, session2]

/-! ### Witnesses: the agents -/

theorem inv_reset : TxInv Config.params TxState.reset :=
  ⟨rfl, rfl, by decide, by decide, by decide, by decide, by decide⟩

theorem sound_reset_rx {rx : RxState} (h : RxInv rx) : Sound (rxOnly rx) := ⟨inv_reset, h⟩

theorem wit_TxHostTransmitsOrStops :
    (Sound (withInit (.ok h0) State.reset) ∧ (withInit (.ok h0) State.reset).env.nextInit = .ok h0) ∧
    ((withInit (.err .notFound) State.reset).tx.txState = .idle ∧
      (withInit (.err .notFound) State.reset).env.nextInit = .err .notFound) ∧
    ((nextOf (exec (.encode [170]) (withInit (.ok h0) State.reset))).bind fun u => nextOf (exec .actInit u)).isSome ∧
    ((nextOf (exec .actInit (withInit (.ok h0) State.reset))).bind fun u => nextOf (exec (.encode [170]) u)).isSome :=
  ⟨⟨⟨inv_reset, rfl⟩, by decide⟩, by decide, by decide, by decide⟩

/-- Every token stands for one sample of one millisecond. -/
noncomputable def oneSample (_ : Block) : SampleBlock := ⟨[1], 1, by simp⟩

theorem wit_ConsumerOutputsTheEnvelope :
    (∃ x, consumerTurn oneSample consumerStart (rxOnly ringOne) = some x) ∧
    (Sound (rxOnly (doneRing ringWrapped)) ∧ (doneRing ringWrapped).rbState = .built ∧
      (doneRing ringWrapped).rbDone = true) :=
  ⟨⟨_, rfl⟩, sound_reset_rx inv_doneWrapped, by decide, by decide⟩

/-! Executions: an order of turns for ever and the states it leads to. -/

/-- The state after a turn; the same state where the turn stops. -/
def advance (t : Turn) (s : State) : State :=
  match takeTurn Config.params t s with
  | .next v => v
  | .fault _ => s
  | .refused _ => s

/-- The states an order of turns leads to. -/
def states (u : Nat → Turn) (s : State) : Nat → State
  | 0 => s
  | n + 1 => advance (u n) (states u s n)

/-- A read of the consumer. -/
def readTurn0 : Turn := .cmd .cns 0b1010 lanes

/-- A write of `d1` by the producer. -/
def writeTurn0 : Turn := .cmd .prd 0b1001 lanes

/-- A read of a full ring, a write, and reads for ever. -/
def readsAndOneWrite (n : Nat) : Turn := if n = 1 then writeTurn0 else readTurn0

/-- From turn 4 on the ring stays as it is, empty. -/
theorem reads_leave_empty_ring (n : Nat) :
    (states readsAndOneWrite (rxOnly ringFull2) (n + 4)).rx =
      ring2 [.empty, .empty] 1 1 false [d0, d1, d1] [d0, d1, d1] ∧
    takeTurn Config.params readTurn0 (states readsAndOneWrite (rxOnly ringFull2) (n + 4)) =
      .next (states readsAndOneWrite (rxOnly ringFull2) (n + 5)) := by
  have waits : ∀ s : State, s.rx = ring2 [.empty, .empty] 1 1 false [d0, d1, d1] [d0, d1, d1] →
      takeTurn Config.params readTurn0 s = .next (s.respond .cns (.plain .wait)) := by
    rintro ⟨tx, rx, env⟩ h
    cases h
    rfl
  have key : ∀ m, (states readsAndOneWrite (rxOnly ringFull2) (m + 4)).rx =
      ring2 [.empty, .empty] 1 1 false [d0, d1, d1] [d0, d1, d1] := by
    intro m
    induction m with
    | zero => decide
    | succ m ih =>
      show (advance readTurn0 (states readsAndOneWrite (rxOnly ringFull2) (m + 4))).rx = _
      simp only [advance, waits _ ih]
      exact ih
  refine ⟨key n, ?_⟩
  show _ = Host.Outcome.next (advance readTurn0 (states readsAndOneWrite (rxOnly ringFull2) (n + 4)))
  simp [advance, waits _ (key n)]

/-- Clause 1: the producer before a full ring. -/
theorem wit_WaitingAgentsProceed :
    IsExecution readsAndOneWrite (states readsAndOneWrite (rxOnly ringFull2)) ∧
    Sound (rxOnly ringFull2) ∧ ringFull2.rbState = .built ∧ ringFull2.rbDone = false ∧
    (∀ n, keepsRing (readsAndOneWrite n) = true) ∧
    (∀ n, onPort .prd (readsAndOneWrite n) → offers d1 (readsAndOneWrite n)) ∧
    WeaklyFair readsAndOneWrite
      (fun n => (states readsAndOneWrite (rxOnly ringFull2) n).rx.rbWseq = ringFull2.rbWseq) (offers d1) ∧
    (∀ n, ∃ m, n ≤ m ∧ isCommand .rbRead (readsAndOneWrite m)) := by
  refine ⟨?_, sound_reset_rx inv_ringFull2, by decide, by decide, ?_, ?_, ?_, ?_⟩
  · intro n
    match n with
    | 0 => rfl
    | 1 => rfl
    | 2 => rfl
    | 3 => rfl
    | n + 4 => exact (reads_leave_empty_ring n).2
  · intro n; unfold readsAndOneWrite; split <;> rfl
  · intro n hp
    unfold readsAndOneWrite at hp ⊢
    split at hp
    · rw [if_pos ‹_›]; exact ⟨lanes, rfl, rfl⟩
    · obtain ⟨op, a, h⟩ := hp; cases h
  · intro n h
    have h' : (states readsAndOneWrite (rxOnly ringFull2) (n + 4)).rx.rbWseq = ringFull2.rbWseq := h (n + 4) (by omega)
    rw [(reads_leave_empty_ring n).1] at h'
    exact absurd h' (by decide)
  · exact fun n => ⟨n + 2, by omega, .cns, 0b1010, lanes, by simp [readsAndOneWrite, readTurn0], rfl⟩

/-- The turns of a list and then the idle scheduler for ever. -/
def thenIdle (ts : List Turn) (n : Nat) : Turn := ts.getD n .sched

/-- The read protocol over a ring that is complete and empty: read, flag, second read, end of stream. -/
def endTurns : List Turn := [readTurn0, .cmd .cns 0b1100 lanes, readTurn0]

def endPhases (n : Nat) : ReadNext := [.go .look, .go .check, .go .lookAgain].getD n (.answer .endOfStream)

/-- The read protocol over an empty ring that is not complete: read, flag, and back at the head. -/
def pollTurns : List Turn := [readTurn0, .cmd .cns 0b1100 lanes]

def pollPhases (n : Nat) : ReadNext := [.go .look, .go .check].getD n (.go .look)

/-- Once the turns of the list are over, nothing changes. -/
theorem thenIdle_states {ts : List Turn} {s : State} (k : Nat) (hk : ts.length ≤ k)
    (hi : (states (thenIdle ts) s k).tx.txState = .idle) (n : Nat) :
    states (thenIdle ts) s (k + n) = states (thenIdle ts) s k ∧
    takeTurn Config.params (thenIdle ts (k + n)) (states (thenIdle ts) s (k + n)) =
      .next (states (thenIdle ts) s (k + n + 1)) := by
  have turn : ∀ n, thenIdle ts (k + n) = .sched := fun n => by
    simp [thenIdle, List.getD, List.getElem?_eq_none (show ts.length ≤ k + n by omega)]
  have idle : takeTurn Config.params .sched (states (thenIdle ts) s k) = .next (states (thenIdle ts) s k) := by
    simp [takeTurn, schedulerTurn, hi]
  have key : ∀ n, states (thenIdle ts) s (k + n) = states (thenIdle ts) s k := by
    intro n
    induction n with
    | zero => rfl
    | succ n ih =>
      show advance (thenIdle ts (k + n)) (states (thenIdle ts) s (k + n)) = _
      rw [turn, ih, advance, idle]
  refine ⟨key n, ?_⟩
  rw [turn, key n, show k + n + 1 = k + (n + 1) by omega, key (n + 1), idle]

/-- Clause 2: the consumer before an empty ring that is complete. -/
theorem wit_WaitingAgentsProceed_consumer :
    IsExecution (thenIdle endTurns) (states (thenIdle endTurns) (rxOnly (doneRing ringEmptied))) ∧
    Sound (rxOnly (doneRing ringEmptied)) ∧ (doneRing ringEmptied).rbState = .built ∧
    (∀ n, keepsRing (thenIdle endTurns n) = true) ∧
    FollowsReadWait (thenIdle endTurns) (states (thenIdle endTurns) (rxOnly (doneRing ringEmptied))) endPhases ∧
    endPhases 0 = .go .look ∧
    WeaklyFair (thenIdle endTurns) (fun n => ∃ p, endPhases n = .go p) (onPort .cns) ∧
    (doneRing ringEmptied).rbDone = true := by
  refine ⟨?_, sound_reset_rx inv_doneEmptied, by decide, ?_, ?_, rfl, ?_, rfl⟩
  · intro n
    match n with
    | 0 => rfl
    | 1 => rfl
    | 2 => rfl
    | n + 3 =>
      rw [show n + 3 = 3 + n by omega]
      exact (thenIdle_states 3 (by decide) (by decide) n).2
  · intro n
    match n with
    | 0 => rfl
    | 1 => rfl
    | 2 => rfl
    | _ + 3 => rfl
  · intro n
    match n with
    | 0 => exact ⟨by simp [endPhases], fun p _ h => absurd ⟨_, _, rfl⟩ h, fun p h _ => by
        cases h; exact ⟨⟨.cns, _, lanes, rfl, rfl⟩, .plain .wait, rfl, rfl⟩⟩
    | 1 => exact ⟨by simp [endPhases], fun p _ h => absurd ⟨_, _, rfl⟩ h, fun p h _ => by
        cases h; exact ⟨⟨.cns, _, lanes, rfl, rfl⟩, ⟨.ok, .none, .flag true⟩, rfl, rfl⟩⟩
    | 2 => exact ⟨by simp [endPhases], fun p _ h => absurd ⟨_, _, rfl⟩ h, fun p h _ => by
        cases h; exact ⟨⟨.cns, _, lanes, rfl, rfl⟩, .plain .wait, rfl, rfl⟩⟩
    | n + 3 => exact ⟨fun r h => h, fun p h => by simp [endPhases] at h, fun p h => by simp [endPhases] at h⟩
  · intro n h
    obtain ⟨p, hp⟩ := h (n + 3) (by omega)
    simp [endPhases] at hp

/-- Clause 3: the consumer polls an empty ring that is never completed. -/
theorem wit_WaitingAgentsProceed_flag :
    IsExecution (thenIdle pollTurns) (states (thenIdle pollTurns) (rxOnly ringEmpty0)) ∧
    ringEmpty0.rbState = .built ∧ ringEmpty0.rbDone = false ∧
    (∀ n, keepsRing (thenIdle pollTurns n) = true) ∧ (∀ n, ¬isCommand .rbSetDone (thenIdle pollTurns n)) ∧
    FollowsReadWait (thenIdle pollTurns) (states (thenIdle pollTurns) (rxOnly ringEmpty0)) pollPhases ∧
    pollPhases 0 = .go .look := by
  refine ⟨?_, by decide, by decide, ?_, ?_, ?_, rfl⟩
  · intro n
    match n with
    | 0 => rfl
    | 1 => rfl
    | n + 2 =>
      rw [show n + 2 = 2 + n by omega]
      exact (thenIdle_states 2 (by decide) (by decide) n).2
  · intro n
    match n with
    | 0 => rfl
    | 1 => rfl
    | _ + 2 => rfl
  · rintro n ⟨p, op, a, h, hd⟩
    match n with
    | 0 => cases h; cases hd
    | 1 => cases h; cases hd
    | n + 2 => simp [thenIdle, pollTurns] at h
  · intro n
    match n with
    | 0 => exact ⟨by simp [pollPhases], fun p _ h => absurd ⟨_, _, rfl⟩ h, fun p h _ => by
        cases h; exact ⟨⟨.cns, _, lanes, rfl, rfl⟩, .plain .wait, rfl, rfl⟩⟩
    | 1 => exact ⟨by simp [pollPhases], fun p _ h => absurd ⟨_, _, rfl⟩ h, fun p h _ => by
        cases h; exact ⟨⟨.cns, _, lanes, rfl, rfl⟩, ⟨.ok, .none, .flag false⟩, rfl, rfl⟩⟩
    | n + 2 => exact ⟨fun r h => h, fun p h _ => h, fun p _ h => by
        obtain ⟨op, a, h⟩ := h; simp [thenIdle, pollTurns] at h⟩

end Sys2Proof.Tests
end

/-! The two paths share nothing (R18). Each half rests on one equation: an operation run with other elements on the far
side gives the same outcome, with those elements put in its next state. Read with the elements the state already has,
the same equation says that the operation leaves them alone. -/

namespace Sys2Proof.Machine

/-! ### Outcomes -/

/-- `o` with its next state, if it has one, changed by `f`. -/
def onNext (f : State → State) (o : Host.Outcome State Fault Refusal) : Host.Outcome State Fault Refusal :=
  match o with
  | .next t => .next (f t)
  | .fault e => .fault e
  | .refused r => .refused r

@[simp] theorem onNext_next (f : State → State) (t : State) : onNext f (.next t) = .next (f t) := rfl

/-! ### Other elements on the far side -/

variable (s : State) (tx : TxState) (rx : RxState)

@[simp] theorem State.withRx_self : s.withRx s.rx = s := rfl

@[simp] theorem State.withTx_self : s.withTx s.tx = s := rfl

theorem State.withRx_withTx_comm : (s.withRx rx).withTx tx = (s.withTx tx).withRx rx := rfl

theorem State.shutdownActuator_withRx : (s.withRx rx).shutdownActuator = s.shutdownActuator.withRx rx := rfl

theorem answer_withRx (p : Port) (r : Response) : answer p r (s.withRx rx) = onNext (·.withRx rx) (answer p r s) := rfl

theorem refuse_withRx (p : Port) (st : Status) :
    refuse p st (s.withRx rx) = onNext (·.withRx rx) (refuse p st s) := rfl

/-! ### TX operations with other RX elements -/

theorem execGap_withRx : execGap (s.withRx rx) = onNext (·.withRx rx) (execGap s) := rfl

theorem execPulse_withRx : execPulse (s.withRx rx) = onNext (·.withRx rx) (execPulse s) := rfl

theorem execEncodeWith_withRx (P : Params) (payload : List Byte) :
    execEncodeWith P payload (s.withRx rx) = onNext (·.withRx rx) (execEncodeWith P payload s) := by
  unfold execEncodeWith
  rw [State.withRx_tx]
  split_ifs
  · exact refuse_withRx s rx .txh .busy
  · exact refuse_withRx s rx .txh .param
  · exact answer_withRx (s.withTx _) rx .txh _

theorem execActInit_withRx : execActInit (s.withRx rx) = onNext (·.withRx rx) (execActInit s) := by
  unfold execActInit
  rw [State.withRx_tx]
  split_ifs
  · exact refuse_withRx s rx .txh .busy
  · exact answer_withRx (s.withTx _) rx .txh _
  · exact answer_withRx ⟨_, s.rx, _⟩ rx .txh _

theorem execTransmit_withRx (pulseTimeout gapDuration : Nat) :
    execTransmit pulseTimeout gapDuration (s.withRx rx) =
      onNext (·.withRx rx) (execTransmit pulseTimeout gapDuration s) := by
  unfold execTransmit
  rw [State.withRx_tx]
  split_ifs
  · exact refuse_withRx s rx .txh .busy
  · exact refuse_withRx s rx .txh .state
  · exact refuse_withRx s rx .txh .state
  · exact answer_withRx (s.withTx _) rx .txh _

theorem cancelActuator_withRx : cancelActuator (s.withRx rx) = (cancelActuator s).withRx rx := by
  unfold cancelActuator
  rw [State.withRx_tx]
  split_ifs
  · exact State.shutdownActuator_withRx s rx
  · rfl

theorem execCancel_withRx : execCancel (s.withRx rx) = onNext (·.withRx rx) (execCancel s) := by
  simp only [execCancel, cancelActuator_withRx, State.withRx_tx, State.withRx_withTx_comm, answer_withRx]

theorem execActShutdown_withRx : execActShutdown (s.withRx rx) = onNext (·.withRx rx) (execActShutdown s) := by
  unfold execActShutdown
  rw [State.withRx_tx]
  split_ifs
  · exact refuse_withRx s rx .txh .busy
  · exact refuse_withRx s rx .txh .state
  · exact answer_withRx s.shutdownActuator rx .txh _

/-- R18, TX half: what a TX operation does is independent of the RX elements. -/
theorem exec_withRx {i : Instr} (hi : isTxOp i = true) :
    exec i (s.withRx rx) = onNext (·.withRx rx) (exec i s) := by
  cases i with
  | gap => exact execGap_withRx s rx
  | pulse => exact execPulse_withRx s rx
  | encode payload => exact execEncodeWith_withRx s rx Config.params payload
  | actInit => exact execActInit_withRx s rx
  | transmit pulseTimeout gapDuration => exact execTransmit_withRx s rx pulseTimeout gapDuration
  | cancel => exact execCancel_withRx s rx
  | actShutdown => exact execActShutdown_withRx s rx
  | _ => exact absurd hi Bool.false_ne_true

/-! ### RX operations with other TX elements -/

/-- A ring operation is computed from the RX elements alone; only its answer meets the rest of the state. -/
theorem answerRing_withTx (p : Port) (a : RingAnswer Block) :
    answerRing p a (s.withTx tx) = onNext (·.withTx tx) (answerRing p a s) := by
  cases a with
  | ok v ring => rfl
  | refuse st => rfl
  | stop f => rfl

/-- R18, RX half: what an RX operation does is independent of the TX elements. -/
theorem exec_withTx {i : Instr} (hi : isTxOp i = false) :
    exec i (s.withTx tx) = onNext (·.withTx tx) (exec i s) := by
  cases i with
  | rbInit k => exact answerRing_withTx s tx .rxh (ringInit k s.rx)
  | rbWrite d => exact answerRing_withTx s tx .prd (ringWrite d s.rx)
  | rbRead => exact answerRing_withTx s tx .cns (ringRead s.rx)
  | rbSetDone => exact answerRing_withTx s tx .prd (ringSetDone s.rx)
  | rbGetDone => exact answerRing_withTx s tx .cns (ringGetDone s.rx)
  | rbFree => exact answerRing_withTx s tx .rxh (ringFree s.rx)
  | _ => exact absurd hi.symm Bool.false_ne_true

/-! ### The frame of an operation -/

variable {s} {t : State} {i : Instr}

/-- A TX operation writes no RX element: run with the RX elements it already has, it gives `t` with those. -/
theorem exec_rx_of_isTxOp (hi : isTxOp i = true) (h : exec i s = .next t) : t.rx = s.rx := by
  have hself : exec i s = .next (t.withRx s.rx) := by simpa [h] using exec_withRx s s.rx hi
  have ht : t = t.withRx s.rx := Host.Outcome.next.inj (h.symm.trans hself)
  calc t.rx = (t.withRx s.rx).rx := congrArg State.rx ht
    _ = s.rx := rfl

/-- An RX operation writes no TX element: run with the TX elements it already has, it gives `t` with those. -/
theorem exec_tx_of_not_isTxOp (hi : isTxOp i = false) (h : exec i s = .next t) : t.tx = s.tx := by
  have hself : exec i s = .next (t.withTx s.tx) := by simpa [h] using exec_withTx s s.tx hi
  have ht : t = t.withTx s.tx := Host.Outcome.next.inj (h.symm.trans hself)
  calc t.tx = (t.withTx s.tx).tx := congrArg State.tx ht
    _ = s.tx := rfl

end Sys2Proof.Machine

namespace Sys2Proof.Proofs

open Sys2Proof.Machine

/-- Settles O8: each path's operations are independent of the far side's elements, and so leave them alone. -/
theorem pathsShareNothing : Obligations.PathsShareNothing := by
  unfold Obligations.PathsShareNothing
  constructor
  · intro i s t hi h
    exact ⟨exec_rx_of_isTxOp hi h, fun rx => by rw [exec_withRx s rx hi, h, onNext_next]⟩
  · intro i s t hi h
    exact ⟨exec_tx_of_not_isTxOp hi h, fun tx => by rw [exec_withTx s tx hi, h, onNext_next]⟩

end Sys2Proof.Proofs

/-! What one transition can do to the TX elements and on port `ACT`: one case per accepted operation, with the turn that
takes it and the state it is taken in (R74, R141 to R157, R280). Every statement about the TX elements over a step is
read from these cases. -/

namespace Sys2Proof.Machine

/-! ### The turn that is taken -/

/-- The next transition is the scheduler's turn (R74, R160; log 1). -/
def NextIsSched (s : State) : Prop := s.env.turns = [] ∨ ∃ ts, s.env.turns = .sched :: ts

/-- The next transition is the command `i` of an agent. -/
def NextIsCommand (s : State) (i : Instr) : Prop := ∃ u ts, s.env.turns = u :: ts ∧ isCommand i u

/-- The next transition is the input `RST_TX`. -/
def NextIsRstTx (s : State) : Prop := ∃ ts, s.env.turns = .rstTx :: ts

/-- The next transition is the input `RST_RX`. -/
def NextIsRstRx (s : State) : Prop := ∃ ts, s.env.turns = .rstRx :: ts

/-- A word that decodes has the port and the code of the operation's row (R99); only its lanes may differ. -/
theorem encode_of_decode {p : Port} {op : BitVec 4} {a : Operands} {i : Instr} (h : decode (.cmd4 p op a) = .ok i) :
    ∃ a', encode i = .cmd4 p op a' := by
  have h : decodeCmd4 p op a = .ok i := h
  unfold decodeCmd4 at h
  split at h
  · cases h
  · rename_i owner j hcode
    split at h
    · rename_i howner
      cases h
      subst howner
      unfold decodeCode at hcode
      split at hcode <;> cases hcode <;> exact ⟨_, rfl⟩
    · cases h

/-- A command as the next turn stands on the port and under the code of its row (R99). -/
theorem NextIsCommand.turns_eq {s : State} {i : Instr} (h : NextIsCommand s i) :
    ∃ p op a a' ts, s.env.turns = .cmd p op a :: ts ∧ encode i = .cmd4 p op a' := by
  obtain ⟨u, ts, hts, p, op, a, rfl, hd⟩ := h
  obtain ⟨a', he⟩ := encode_of_decode hd
  exact ⟨p, op, a, a', ts, hts, he⟩

theorem NextIsCommand.turns_of_transmit {s : State} {T G : Nat} (h : NextIsCommand s (.transmit T G)) :
    ∃ a ts, s.env.turns = .cmd .txh 0b0011 a :: ts := by
  obtain ⟨p, op, a, a', ts, hts, he⟩ := h.turns_eq
  cases he
  exact ⟨a, ts, hts⟩

theorem not_nextIsCommand_gap (s : State) : ¬NextIsCommand s .gap := fun h => by
  obtain ⟨p, op, a, a', ts, -, he⟩ := h.turns_eq
  cases he

theorem not_nextIsCommand_pulse (s : State) : ¬NextIsCommand s .pulse := fun h => by
  obtain ⟨p, op, a, a', ts, -, he⟩ := h.turns_eq
  cases he

/-! ### The end of a run by `CANCEL`, field by field (R155) -/

section
variable (tx : TxState)

@[simp] theorem cancelRun_pay : (cancelRun tx).pay = tx.pay := by unfold cancelRun; split <;> rfl
@[simp] theorem cancelRun_paylen : (cancelRun tx).paylen = tx.paylen := by unfold cancelRun; split <;> rfl
@[simp] theorem cancelRun_bits : (cancelRun tx).bits = tx.bits := by unfold cancelRun; split <;> rfl
@[simp] theorem cancelRun_nbits : (cancelRun tx).nbits = tx.nbits := by unfold cancelRun; split <;> rfl
@[simp] theorem cancelRun_actState : (cancelRun tx).actState = tx.actState := by unfold cancelRun; split <;> rfl
@[simp] theorem cancelRun_actHandle : (cancelRun tx).actHandle = tx.actHandle := by unfold cancelRun; split <;> rfl
@[simp] theorem cancelRun_bitIdx : (cancelRun tx).bitIdx = tx.bitIdx := by unfold cancelRun; split <;> rfl
@[simp] theorem cancelRun_txEv : (cancelRun tx).txEv = tx.txEv := by unfold cancelRun; split <;> rfl

@[simp] theorem cancelRun_txState : (cancelRun tx).txState = .idle := by
  unfold cancelRun
  split
  · rfl
  · exact TxMode.idle_of_ne_run ‹_›

variable {tx}

theorem bitsValid_of_cancelRun (h : (cancelRun tx).bitsValid = true) : tx.bitsValid = true := by
  unfold cancelRun at h
  split at h
  · cases h
  · exact h

end

theorem cancelActuator_of_opened {s : State} (h : s.tx.actState = .opened) : cancelActuator s = s.shutdownActuator :=
  if_pos h

theorem cancelActuator_of_closed {s : State} (h : s.tx.actState = .closed) : cancelActuator s = s :=
  if_neg (by rw [h]; decide)

/-! ### The other TX operations, field by field -/

section
variable (i : Nat) (tx : TxState)

@[simp] theorem advanceBit_pay : (advanceBit i tx).pay = tx.pay := by unfold advanceBit; split <;> rfl
@[simp] theorem advanceBit_paylen : (advanceBit i tx).paylen = tx.paylen := by unfold advanceBit; split <;> rfl
@[simp] theorem advanceBit_bits : (advanceBit i tx).bits = tx.bits := by unfold advanceBit; split <;> rfl
@[simp] theorem advanceBit_nbits : (advanceBit i tx).nbits = tx.nbits := by unfold advanceBit; split <;> rfl
@[simp] theorem advanceBit_bitIdx : (advanceBit i tx).bitIdx = i + 1 := by unfold advanceBit; split <;> rfl
@[simp] theorem advanceBit_txEv : (advanceBit i tx).txEv = tx.txEv := by unfold advanceBit; split <;> rfl

variable (r : InitAnswer)

@[simp] theorem applyInit_pay : (applyInit r tx).pay = tx.pay := by cases r <;> rfl
@[simp] theorem applyInit_paylen : (applyInit r tx).paylen = tx.paylen := by cases r <;> rfl
@[simp] theorem applyInit_bits : (applyInit r tx).bits = tx.bits := by cases r <;> rfl
@[simp] theorem applyInit_nbits : (applyInit r tx).nbits = tx.nbits := by cases r <;> rfl
@[simp] theorem applyInit_bitsValid : (applyInit r tx).bitsValid = tx.bitsValid := by cases r <;> rfl
@[simp] theorem applyInit_txState : (applyInit r tx).txState = tx.txState := by cases r <;> rfl
@[simp] theorem applyInit_bitIdx : (applyInit r tx).bitIdx = tx.bitIdx := by cases r <;> rfl
@[simp] theorem applyInit_txEv : (applyInit r tx).txEv = tx.txEv ++ [.init r] := by cases r <;> rfl

variable (T G : Nat)

@[simp] theorem startRun_pay : (startRun T G tx).pay = tx.pay := by unfold startRun; split <;> rfl
@[simp] theorem startRun_paylen : (startRun T G tx).paylen = tx.paylen := by unfold startRun; split <;> rfl
@[simp] theorem startRun_bits : (startRun T G tx).bits = tx.bits := by unfold startRun; split <;> rfl
@[simp] theorem startRun_nbits : (startRun T G tx).nbits = tx.nbits := by unfold startRun; split <;> rfl
@[simp] theorem startRun_bitIdx : (startRun T G tx).bitIdx = 0 := by unfold startRun; split <;> rfl
@[simp] theorem startRun_txEv : (startRun T G tx).txEv = tx.txEv := by unfold startRun; split <;> rfl

variable {tx T G}

theorem startRun_of_empty (h : tx.nbits = 0) :
    startRun T G tx = { tx with
      txT := T, txG := G, bitIdx := 0, txTime := 0, failCnt := 0, lastErr := .none,
      txStatus := .done, bitsValid := false } := by simp [startRun, h]

theorem startRun_of_nonempty (h : tx.nbits ≠ 0) :
    startRun T G tx = { tx with
      txT := T, txG := G, bitIdx := 0, txTime := 0, failCnt := 0, lastErr := .none,
      txStatus := .none, txState := .run } := by simp [startRun, h]

end

/-! ### What one transition can do to the TX elements -/

/-- From `s`, one transition leaves the TX elements named and makes the calls listed on port `ACT`. -/
inductive TxEffect (P : Params) (s : State) : TxState → List ActCall → Prop where
  /-- an RX operation, an idle turn, `RST_RX`, or a refusal -/
  | unchanged : TxEffect P s s.tx []
  /-- an accepted `ENCODE` (R121) -/
  | encode (payload : List Byte) (turn : NextIsCommand s (.encode payload)) (idle : s.tx.txState = .idle) :
      TxEffect P s (storePayload P payload s.tx) []
  /-- an `ACT_INIT` of an open Actuator (R141) -/
  | initAgain (turn : NextIsCommand s .actInit) (idle : s.tx.txState = .idle) (opened : s.tx.actState = .opened) :
      TxEffect P s (takeException (.fatal .alreadyInitialized) s.tx) []
  /-- an `ACT_INIT` that calls the device (R141) -/
  | init (turn : NextIsCommand s .actInit) (idle : s.tx.txState = .idle) (closed : s.tx.actState = .closed) :
      TxEffect P s (applyInit s.env.nextInit s.tx) [.opening]
  /-- an accepted `TRANSMIT` (R143) -/
  | transmit (T G : Nat) (turn : NextIsCommand s (.transmit T G)) (idle : s.tx.txState = .idle)
      (valid : s.tx.bitsValid = true) (opened : s.tx.actState = .opened) : TxEffect P s (startRun T G s.tx) []
  /-- a `CANCEL` with no Actuator to shut down (R155) -/
  | cancelClosed (turn : NextIsCommand s .cancel) (closed : s.tx.actState = .closed) :
      TxEffect P s (cancelRun s.tx) []
  /-- a `CANCEL` that shuts the Actuator down (R155) -/
  | cancelOpened (turn : NextIsCommand s .cancel) (opened : s.tx.actState = .opened) :
      TxEffect P s (cancelRun s.shutdownActuator.tx) [.shutdown s.tx.actHandle]
  /-- an accepted `ACT_SHUTDOWN` (R157) -/
  | shutdown (turn : NextIsCommand s .actShutdown) (idle : s.tx.txState = .idle) (opened : s.tx.actState = .opened) :
      TxEffect P s s.shutdownActuator.tx [.shutdown s.tx.actHandle]
  /-- the `STEP` of a 1-bit (R150, R151) -/
  | pulse (turn : NextIsSched s) (run : s.tx.txState = .run) (fetch : fetchBit s.tx = some 1) :
      TxEffect P s (advanceBit s.tx.bitIdx (applyPulse s.env.nextPulse s.tx)) [.pulse s.tx.actHandle s.tx.txT]
  /-- the `STEP` of a 0-bit (R150, R152) -/
  | gap (turn : NextIsSched s) (run : s.tx.txState = .run) (fetch : fetchBit s.tx = some 0) :
      TxEffect P s (advanceBit s.tx.bitIdx (applyGap s.tx)) []
  /-- `RST_TX` (R280, R282) -/
  | reset (turn : NextIsRstTx s) : TxEffect P s TxState.reset []

/-- What the transition from `s` to `t` did to the TX elements and on port `ACT` is one of the cases. -/
def HasTxEffect (P : Params) (s t : State) : Prop :=
  ∃ cs, TxEffect P s t.tx cs ∧ t.env.actCalls = s.env.actCalls ++ cs

section
variable {P : Params} {s t : State}

theorem HasTxEffect.of_unchanged (htx : t.tx = s.tx) (hcalls : t.env.actCalls = s.env.actCalls) :
    HasTxEffect P s t := ⟨[], htx ▸ .unchanged, by rw [hcalls, List.append_nil]⟩

/-- A ring operation answers the elements it leaves or refuses, and either way makes no call. -/
theorem answerRing_next {p : Port} {a : RingAnswer Block} (h : answerRing p a s = .next t) :
    (∃ v rx, a = .ok v rx ∧ t = (s.withRx rx).respond p ⟨.ok, .none, v.response⟩) ∨
    (∃ st, a = .refuse st ∧ t = s.respond p (.plain st)) := by
  cases a with
  | ok v rx => exact .inl ⟨v, rx, rfl, by simpa using h.symm⟩
  | refuse st => exact .inr ⟨st, rfl, by simpa using h.symm⟩
  | stop f => cases h

theorem answerRing_actCalls {p : Port} {a : RingAnswer Block} (h : answerRing p a s = .next t) :
    t.env.actCalls = s.env.actCalls := by
  obtain ⟨v, rx, -, rfl⟩ | ⟨st, -, rfl⟩ := answerRing_next h <;> rfl

theorem exec_actCalls_of_not_isTxOp {i : Instr} (hi : isTxOp i = false) (h : exec i s = .next t) :
    t.env.actCalls = s.env.actCalls := by
  cases i with
  | rbInit k => exact answerRing_actCalls (p := .rxh) h
  | rbWrite d => exact answerRing_actCalls (p := .prd) h
  | rbRead => exact answerRing_actCalls (p := .cns) h
  | rbSetDone => exact answerRing_actCalls (p := .prd) h
  | rbGetDone => exact answerRing_actCalls (p := .cns) h
  | rbFree => exact answerRing_actCalls (p := .rxh) h
  | _ => cases hi

theorem hasTxEffect_of_rxCommand {i : Instr} {ts : List Turn} (hi : isTxOp i = false)
    (h : exec i (s.withTurns ts) = .next t) : HasTxEffect P s t := by
  have htx : t.tx = (s.withTurns ts).tx := exec_tx_of_not_isTxOp hi h
  have hcalls : t.env.actCalls = (s.withTurns ts).env.actCalls := exec_actCalls_of_not_isTxOp hi h
  exact .of_unchanged htx hcalls

theorem hasTxEffect_of_cancel {ts : List Turn} (turn : NextIsCommand s .cancel)
    (h : execCancel (s.withTurns ts) = .next t) : HasTxEffect P s t := by
  have ht := Host.Outcome.next.inj h
  cases hact : s.tx.actState with
  | closed =>
    rw [cancelActuator_of_closed (s := s.withTurns ts) hact] at ht
    subst ht
    exact ⟨_, .cancelClosed turn hact, (List.append_nil _).symm⟩
  | opened =>
    rw [cancelActuator_of_opened (s := s.withTurns ts) hact] at ht
    subst ht
    exact ⟨_, .cancelOpened turn hact, rfl⟩

theorem hasTxEffect_of_command {i : Instr} {ts : List Turn} (turn : NextIsCommand s i)
    (h : execFor P i (s.withTurns ts) = .next t) : HasTxEffect P s t := by
  cases i with
  | gap => exact absurd turn (not_nextIsCommand_gap s)
  | pulse => exact absurd turn (not_nextIsCommand_pulse s)
  | encode payload =>
    obtain ⟨-, rfl⟩ | ⟨-, -, rfl⟩ | ⟨idle, -, rfl⟩ := execEncodeWith_next h
    · exact .of_unchanged rfl rfl
    · exact .of_unchanged rfl rfl
    · exact ⟨_, .encode payload turn idle, (List.append_nil _).symm⟩
  | actInit =>
    obtain ⟨-, rfl⟩ | ⟨idle, opened, rfl⟩ | ⟨idle, closed, rfl⟩ := execActInit_next h
    · exact .of_unchanged rfl rfl
    · exact ⟨_, .initAgain turn idle opened, (List.append_nil _).symm⟩
    · exact ⟨_, .init turn idle closed, rfl⟩
  | transmit T G =>
    obtain ⟨-, rfl⟩ | ⟨-, -, rfl⟩ | ⟨idle, valid, opened, rfl⟩ := execTransmit_next h
    · exact .of_unchanged rfl rfl
    · exact .of_unchanged rfl rfl
    · exact ⟨_, .transmit T G turn idle valid opened, (List.append_nil _).symm⟩
  | cancel => exact hasTxEffect_of_cancel turn h
  | actShutdown =>
    obtain ⟨-, rfl⟩ | ⟨-, -, rfl⟩ | ⟨idle, opened, rfl⟩ := execActShutdown_next h
    · exact .of_unchanged rfl rfl
    · exact .of_unchanged rfl rfl
    · exact ⟨_, .shutdown turn idle opened, rfl⟩
  | rbInit k => exact hasTxEffect_of_rxCommand (i := .rbInit k) rfl h
  | rbWrite d => exact hasTxEffect_of_rxCommand (i := .rbWrite d) rfl h
  | rbRead => exact hasTxEffect_of_rxCommand (i := .rbRead) rfl h
  | rbSetDone => exact hasTxEffect_of_rxCommand (i := .rbSetDone) rfl h
  | rbGetDone => exact hasTxEffect_of_rxCommand (i := .rbGetDone) rfl h
  | rbFree => exact hasTxEffect_of_rxCommand (i := .rbFree) rfl h

theorem hasTxEffect_of_sched {ts : List Turn} (turn : NextIsSched s)
    (h : schedulerTurn (s.withTurns ts) = .next t) : HasTxEffect P s t := by
  obtain ⟨-, rfl⟩ | ⟨run, hstep⟩ := schedulerTurn_next h
  · exact .of_unchanged rfl rfl
  · obtain ⟨b, fetch, ⟨rfl, rfl⟩ | ⟨rfl, rfl⟩⟩ := schedulerStep_next hstep
    · exact ⟨_, .pulse turn run fetch, rfl⟩
    · exact ⟨_, .gap turn run fetch, (List.append_nil _).symm⟩

/-- Everything one transition can do to the TX elements and on port `ACT`. -/
theorem nextTransition_hasTxEffect (h : nextTransition P s = .next t) : HasTxEffect P s t := by
  obtain ⟨turn, hsched⟩ | ⟨p, op, a, ts, hts, hcmd⟩ | ⟨ts, hts, rfl⟩ | ⟨ts, hts, rfl⟩ := nextTransition_next h
  · exact hasTxEffect_of_sched turn hsched
  · obtain ⟨i, hdecode, hexec⟩ | ⟨r, -, rfl⟩ := commandTurn_next hcmd
    · exact hasTxEffect_of_command ⟨_, ts, hts, p, op, a, rfl, hdecode⟩ hexec
    · exact .of_unchanged rfl rfl
  · exact ⟨_, .reset ⟨ts, hts⟩, (List.append_nil _).symm⟩
  · exact .of_unchanged rfl rfl

/-- Everything one step can do to the TX elements and on port `ACT`. -/
theorem step_hasTxEffect (h : step s = .next t) : HasTxEffect Config.params s t := nextTransition_hasTxEffect h

end

/-! ### The invariants R52 over one transition -/

/-- The part of R52 that holds alike in and out of a run: (a) to (c). -/
structure StaticTxInv (P : Params) (tx : TxState) : Prop where
  /-- R52(a) -/
  paylen_eq : tx.paylen = tx.pay.length
  /-- R52(a) -/
  nbits_eq : tx.nbits = tx.bits.length
  /-- R52(b) -/
  bits_eq : tx.bitsValid = true → tx.bits = encodePayload P.preamble tx.pay
  /-- R52(c) -/
  open_iff : tx.actState = .opened ↔ tx.actHandle ≠ none

section
variable {P : Params} {tx : TxState}

theorem TxInv.static (h : TxInv P tx) : StaticTxInv P tx := ⟨h.paylen_eq, h.nbits_eq, h.bits_eq, h.open_iff⟩

/-- Out of a run R52 is its static part. -/
theorem StaticTxInv.txInv_of_idle (h : StaticTxInv P tx) (hidle : tx.txState = .idle) : TxInv P tx :=
  have hrun : tx.txState ≠ .run := by rw [hidle]; decide
  ⟨h.paylen_eq, h.nbits_eq, h.bits_eq, h.open_iff, (absurd · hrun), (absurd · hrun), (absurd · hrun)⟩

theorem reset_txInv (P : Params) : TxInv P TxState.reset :=
  StaticTxInv.txInv_of_idle ⟨rfl, rfl, (absurd · Bool.false_ne_true), by decide⟩ rfl

theorem StaticTxInv.after_storePayload (h : StaticTxInv P tx) (payload : List Byte) :
    StaticTxInv P (storePayload P payload tx) :=
  have ⟨hpay, hbits⟩ := storePayload_wf P payload tx
  ⟨hpay, hbits, fun _ => rfl, h.open_iff⟩

theorem StaticTxInv.after_applyInit (h : StaticTxInv P tx) (r : InitAnswer) : StaticTxInv P (applyInit r tx) := by
  refine ⟨by simpa using h.paylen_eq, by simpa using h.nbits_eq, by simpa using h.bits_eq, ?_⟩
  cases r with
  | ok hd => simp [applyInit]
  | err k => exact h.open_iff

theorem StaticTxInv.after_shutdownActuator {s : State} (h : StaticTxInv P s.tx) : StaticTxInv P s.shutdownActuator.tx :=
  ⟨h.paylen_eq, h.nbits_eq, h.bits_eq, by simp⟩

theorem StaticTxInv.after_cancelRun (h : StaticTxInv P tx) : StaticTxInv P (cancelRun tx) :=
  ⟨by simpa using h.paylen_eq, by simpa using h.nbits_eq,
    fun hv => by simpa using h.bits_eq (bitsValid_of_cancelRun hv), by simpa using h.open_iff⟩

theorem StaticTxInv.after_applyPulse (h : StaticTxInv P tx) (r : PulseAnswer) : StaticTxInv P (applyPulse r tx) :=
  ⟨by simpa using h.paylen_eq, by simpa using h.nbits_eq, by simpa using h.bits_eq, by simpa using h.open_iff⟩

theorem StaticTxInv.after_applyGap (h : StaticTxInv P tx) : StaticTxInv P (applyGap tx) :=
  ⟨h.paylen_eq, h.nbits_eq, h.bits_eq, h.open_iff⟩

/-- A run begins with nothing scheduled, so that the counts of R52(e) are all 0. -/
theorem TxInv.after_startRun (h : TxInv P tx) (T G : Nat) (hidle : tx.txState = .idle) (hvalid : tx.bitsValid = true)
    (hopen : tx.actState = .opened) : TxInv P (startRun T G tx) := by
  by_cases hn : tx.nbits = 0
  · rw [startRun_of_empty hn]
    exact StaticTxInv.txInv_of_idle ⟨h.paylen_eq, h.nbits_eq, (absurd · Bool.false_ne_true), h.open_iff⟩ hidle
  · rw [startRun_of_nonempty hn]
    exact ⟨h.paylen_eq, h.nbits_eq, h.bits_eq, h.open_iff, fun _ => ⟨hvalid, hopen, Nat.pos_of_ne_zero hn⟩,
      fun _ => by simp [ones, zeros], fun _ => Nat.zero_le _⟩

/-- The advance keeps R52 if the symbol at `i` has brought the time and the failures to those of the first `i + 1`
bits: after the last bit the run is over, and after an inner one the next bit is there to be scheduled. -/
theorem StaticTxInv.after_advanceBit {i : Nat} (h : StaticTxInv P tx) (hvalid : tx.bitsValid = true)
    (hopen : tx.actState = .opened) (hi : i < tx.nbits)
    (htime : tx.txTime = ones (tx.bits.take (i + 1)) * tx.txT + zeros (tx.bits.take (i + 1)) * tx.txG)
    (hfail : tx.failCnt ≤ ones (tx.bits.take (i + 1))) : TxInv P (advanceBit i tx) := by
  by_cases hlast : i + 1 = tx.nbits
  · rw [advanceBit_last hlast]
    exact StaticTxInv.txInv_of_idle
      ⟨h.paylen_eq, h.nbits_eq, (absurd · Bool.false_ne_true), h.open_iff⟩ rfl
  · rw [advanceBit_inner hlast]
    exact ⟨h.paylen_eq, h.nbits_eq, h.bits_eq, h.open_iff,
      fun _ => ⟨hvalid, hopen, Nat.lt_of_le_of_ne hi hlast⟩, fun _ => htime, fun _ => hfail⟩

theorem applyPulse_failCnt_le (r : PulseAnswer) (tx : TxState) : (applyPulse r tx).failCnt ≤ tx.failCnt + 1 := by
  cases r with
  | ok => exact Nat.le_succ _
  | err k => exact Nat.le_refl _

/-- A 1-bit scheduled: one pulse more in the time, and at most one failure more. -/
theorem TxInv.after_pulse (h : TxInv P tx) (r : PulseAnswer) (hrun : tx.txState = .run)
    (hfetch : fetchBit tx = some 1) : TxInv P (advanceBit tx.bitIdx (applyPulse r tx)) := by
  obtain ⟨hvalid, hopen, hlt⟩ := h.run_ready hrun
  have htake := take_succ_of_fetch hfetch
  have htime := h.run_time hrun
  have hfail : tx.failCnt ≤ ones (tx.bits.take tx.bitIdx) := h.run_fails hrun
  refine (h.static.after_applyPulse r).after_advanceBit (by simpa using hvalid) (by simpa using hopen)
    (by simpa using hlt) ?_ ?_
  · simp only [applyPulse_txTime, applyPulse_bits, applyPulse_txT, applyPulse_txG, htake, ones_append_one,
      zeros_append_one, htime]
    ring
  · calc (applyPulse r tx).failCnt ≤ tx.failCnt + 1 := applyPulse_failCnt_le r tx
      _ ≤ ones (tx.bits.take tx.bitIdx) + 1 := Nat.succ_le_succ hfail
      _ = ones ((applyPulse r tx).bits.take (tx.bitIdx + 1)) := by
        rw [applyPulse_bits, htake, ones_append_one]

/-- A 0-bit scheduled: one gap more in the time, and the failures as they were. -/
theorem TxInv.after_gap (h : TxInv P tx) (hrun : tx.txState = .run) (hfetch : fetchBit tx = some 0) :
    TxInv P (advanceBit tx.bitIdx (applyGap tx)) := by
  obtain ⟨hvalid, hopen, hlt⟩ := h.run_ready hrun
  have htake := take_succ_of_fetch hfetch
  have htime := h.run_time hrun
  refine h.static.after_applyGap.after_advanceBit hvalid hopen hlt ?_ ?_
  · simp only [applyGap_eq, htake, ones_append_zero, zeros_append_zero, htime]
    ring
  · simpa only [applyGap_eq, htake, ones_append_zero] using h.run_fails hrun

/-- R52 is kept by every case of a transition. -/
theorem TxEffect.txInv {s : State} {cs : List ActCall} (e : TxEffect P s tx cs) (h : TxInv P s.tx) : TxInv P tx := by
  cases e with
  | unchanged => exact h
  | encode payload _ idle => exact (h.static.after_storePayload payload).txInv_of_idle idle
  | initAgain _ idle _ => exact StaticTxInv.txInv_of_idle ⟨h.paylen_eq, h.nbits_eq, h.bits_eq, h.open_iff⟩ idle
  | init _ idle _ => exact (h.static.after_applyInit _).txInv_of_idle (by simpa using idle)
  | transmit T G _ idle valid opened => exact h.after_startRun T G idle valid opened
  | cancelClosed _ _ => exact h.static.after_cancelRun.txInv_of_idle (cancelRun_txState _)
  | cancelOpened _ _ => exact h.static.after_shutdownActuator.after_cancelRun.txInv_of_idle (cancelRun_txState _)
  | shutdown _ idle _ => exact h.static.after_shutdownActuator.txInv_of_idle idle
  | pulse _ run fetch => exact h.after_pulse _ run fetch
  | gap _ run fetch => exact h.after_gap run fetch
  | reset _ => exact reset_txInv P

theorem nextTransition_txInv {s t : State} (h : TxInv P s.tx) (hstep : nextTransition P s = .next t) :
    TxInv P t.tx := by
  obtain ⟨cs, e, -⟩ := nextTransition_hasTxEffect hstep
  exact e.txInv h

end

/-! ### The program counter, the event stream and the lengths over one transition -/

section
variable {P : Params} {s : State} {tx : TxState} {cs : List ActCall}

/-- R32. -/
theorem TxEffect.bitIdx_cases (e : TxEffect P s tx cs) :
    tx.bitIdx = s.tx.bitIdx ∨
    (tx.bitIdx = s.tx.bitIdx + 1 ∧ s.tx.txState = .run ∧ NextIsSched s) ∨
    (tx.bitIdx = 0 ∧ ((∃ T G, NextIsCommand s (.transmit T G)) ∨ NextIsRstTx s)) := by
  cases e with
  | unchanged => exact .inl rfl
  | encode _ _ _ => exact .inl rfl
  | initAgain _ _ _ => exact .inl rfl
  | init _ _ _ => exact .inl (applyInit_bitIdx _ _)
  | transmit T G turn _ _ _ => exact .inr (.inr ⟨startRun_bitIdx _ _ _, .inl ⟨T, G, turn⟩⟩)
  | cancelClosed _ _ => exact .inl (cancelRun_bitIdx _)
  | cancelOpened _ _ => exact .inl (cancelRun_bitIdx _)
  | shutdown _ _ _ => exact .inl rfl
  | pulse turn run _ => exact .inr (.inl ⟨advanceBit_bitIdx _ _, run, turn⟩)
  | gap turn run _ => exact .inr (.inl ⟨advanceBit_bitIdx _ _, run, turn⟩)
  | reset turn => exact .inr (.inr ⟨rfl, .inr turn⟩)

/-- R41: but for `RST_TX` the event stream stays or gets one event more. -/
theorem TxEffect.txEv_cases (e : TxEffect P s tx cs) :
    tx.txEv = s.tx.txEv ∨ (∃ ev, tx.txEv = s.tx.txEv ++ [ev]) ∨ NextIsRstTx s := by
  cases e with
  | unchanged => exact .inl rfl
  | encode _ _ _ => exact .inl rfl
  | initAgain _ _ _ => exact .inl rfl
  | init _ _ _ => exact .inr (.inl ⟨_, applyInit_txEv _ _⟩)
  | transmit _ _ _ _ _ _ => exact .inl (startRun_txEv _ _ _)
  | cancelClosed _ _ => exact .inl (cancelRun_txEv _)
  | cancelOpened _ _ => exact .inr (.inl ⟨.shutdown, cancelRun_txEv _⟩)
  | shutdown _ _ _ => exact .inr (.inl ⟨.shutdown, rfl⟩)
  | pulse _ _ _ => exact .inr (.inl ⟨_, (advanceBit_txEv _ _).trans (applyPulse_txEv _ _)⟩)
  | gap _ _ _ => exact .inr (.inl ⟨_, advanceBit_txEv _ _⟩)
  | reset turn => exact .inr (.inr turn)

/-- R27, R95, R262: the one call a transition may make, by the state it is made in. -/
theorem TxEffect.calls_cases (e : TxEffect P s tx cs) :
    cs = [] ∨
    (cs = [.opening] ∧ s.tx.actState = .closed) ∨
    (cs = [.pulse s.tx.actHandle s.tx.txT] ∧ s.tx.txState = .run) ∨
    (cs = [.shutdown s.tx.actHandle] ∧ s.tx.actState = .opened ∧ tx.actState = .closed) := by
  cases e with
  | unchanged => exact .inl rfl
  | encode _ _ _ => exact .inl rfl
  | initAgain _ _ _ => exact .inl rfl
  | init _ _ closed => exact .inr (.inl ⟨rfl, closed⟩)
  | transmit _ _ _ _ _ _ => exact .inl rfl
  | cancelClosed _ _ => exact .inl rfl
  | cancelOpened _ opened => exact .inr (.inr (.inr ⟨rfl, opened, cancelRun_actState _⟩))
  | shutdown _ _ opened => exact .inr (.inr (.inr ⟨rfl, opened, rfl⟩))
  | pulse _ run _ => exact .inr (.inr (.inl ⟨rfl, run⟩))
  | gap _ _ _ => exact .inl rfl
  | reset _ => exact .inl rfl

/-- The lengths of the TX index spaces are stated or left alone together with the spaces (R52(a)). -/
theorem TxEffect.lengths (e : TxEffect P s tx cs) (hpay : s.tx.paylen = s.tx.pay.length)
    (hbits : s.tx.nbits = s.tx.bits.length) : tx.paylen = tx.pay.length ∧ tx.nbits = tx.bits.length := by
  cases e with
  | encode payload _ _ => exact storePayload_wf P payload s.tx
  | reset _ => exact ⟨rfl, rfl⟩
  | unchanged => exact ⟨hpay, hbits⟩
  | initAgain _ _ _ => exact ⟨hpay, hbits⟩
  | shutdown _ _ _ => exact ⟨hpay, hbits⟩
  | init _ _ _ => simpa using ⟨hpay, hbits⟩
  | transmit _ _ _ _ _ _ => simpa using ⟨hpay, hbits⟩
  | cancelClosed _ _ => simpa using ⟨hpay, hbits⟩
  | cancelOpened _ _ => simpa using ⟨hpay, hbits⟩
  | pulse _ _ _ => simpa using ⟨hpay, hbits⟩
  | gap _ _ _ => simpa [applyGap_eq] using ⟨hpay, hbits⟩

/-- An open Actuator has a handle, by R52(c). -/
theorem TxInv.handle_of_opened (h : TxInv P tx) (hopen : tx.actState = .opened) : ∃ hd, tx.actHandle = some hd :=
  Option.ne_none_iff_exists'.mp (h.open_iff.mp hopen)

end

end Sys2Proof.Machine

namespace Sys2Proof.Proofs

open Sys2Proof.Machine

/-- Settles O53: R52 at reset, and over each case of a transition. -/
theorem stepKeepsTxInvariant : Obligations.StepKeepsTxInvariant := by
  unfold Obligations.StepKeepsTxInvariant
  exact ⟨reset_txInv, fun _ _ _ => nextTransition_txInv, fun _ _ => nextTransition_txInv⟩

/-- Settles O24, from the cases of a step. -/
theorem bitIdxHasThreeSuccessors : Obligations.BitIdxHasThreeSuccessors := by
  unfold Obligations.BitIdxHasThreeSuccessors
  intro s t h
  obtain ⟨cs, e, -⟩ := step_hasTxEffect h
  obtain hsame | hnext | ⟨hzero, ⟨T, G, turn⟩ | turn⟩ := e.bitIdx_cases
  · exact .inl hsame
  · exact .inr (.inl hnext)
  · exact .inr (.inr ⟨hzero, .inl turn.turns_of_transmit⟩)
  · exact .inr (.inr ⟨hzero, .inr turn⟩)

/-- Settles O27, from the cases of a step. -/
theorem eventStreamOnlyGrows : Obligations.EventStreamOnlyGrows := by
  unfold Obligations.EventStreamOnlyGrows
  intro s t h hturn
  obtain ⟨cs, e, -⟩ := step_hasTxEffect h
  obtain hsame | ⟨ev, hone⟩ | ⟨ts, hreset⟩ := e.txEv_cases
  · exact ⟨[], by rw [hsame, List.append_nil], Nat.zero_le 1⟩
  · exact ⟨[ev], hone, Nat.le_refl 1⟩
  · exact absurd hreset (hturn ts)

/-- Settles O29: the cases of a step, and the handle that R52 gives an open Actuator and a run. -/
theorem actuatorCallsCarryTheHandle : Obligations.ActuatorCallsCarryTheHandle := by
  unfold Obligations.ActuatorCallsCarryTheHandle
  intro s t hinv h
  obtain ⟨cs, e, hcalls⟩ := step_hasTxEffect h
  refine ⟨cs, hcalls, ?_⟩
  obtain rfl | ⟨rfl, hclosed⟩ | ⟨rfl, hrun⟩ | ⟨rfl, hopen, hclosed⟩ := e.calls_cases
  · simp
  · simp [hclosed]
  · obtain ⟨-, hopen, -⟩ := hinv.run_ready hrun
    obtain ⟨hd, hhd⟩ := hinv.handle_of_opened hopen
    simp [hhd, hrun]
  · obtain ⟨hd, hhd⟩ := hinv.handle_of_opened hopen
    simp [hhd, hclosed]

end Sys2Proof.Proofs

/-! The ring as a queue laid on the cycle of slots (R40, R53, R76). `RingQueue rx q` names the queue `q` and says, slot by
slot round from `RB_RD`, what the ring then holds. R53 as written and the queue reading each hold exactly if there is such
a `q`, and a ring operation changes it in one place: a write appends to `q`, a read takes its head. -/

namespace Sys2Proof.Machine

/-! ### Positions in the cycle -/

theorem add_mod_injective {K rd i j : Nat} (hi : i < K) (hj : j < K) (h : (rd + i) % K = (rd + j) % K) : i = j :=
  (Nat.ModEq.add_left_cancel' rd h).eq_of_lt_of_lt hi hj

/-- Every slot is reached from `RB_RD` in fewer than `RB_K` steps round the cycle. -/
theorem exists_offset {K rd i : Nat} (hrd : rd < K) (hi : i < K) : ∃ j < K, i = (rd + j) % K := by
  rcases Nat.lt_or_ge i rd with hlt | hge
  · refine ⟨i + K - rd, by omega, ?_⟩
    rw [show rd + (i + K - rd) = i + K by omega, Nat.add_mod_right, Nat.mod_eq_of_lt hi]
  · refine ⟨i - rd, by omega, ?_⟩
    rw [Nat.add_sub_cancel' hge, Nat.mod_eq_of_lt hi]

/-! ### The slots of a queue -/

section
variable {β : Type} (q : List β) (d : β) {j : Nat}

/-- The cell at offset `j` of a cycle that holds `q`: the `j`-th element, and EMPTY past the end. -/
def queueCell (j : Nat) : Slot β := (q[j]?).elim .empty .full

@[simp] theorem queueCell_filled : (queueCell q j).filled = true ↔ j < q.length := by
  rcases Nat.lt_or_ge j q.length with h | h
  · simp [queueCell, h, Slot.full]
  · simp [queueCell, h, Slot.empty]

@[simp] theorem queueCell_data : (queueCell q j).data = q[j]? := by
  cases h : q[j]? <;> simp [queueCell, h, Slot.full, Slot.empty]

@[simp] theorem queueCell_cons_succ : queueCell (d :: q) (j + 1) = queueCell q j := rfl

theorem queueCell_of_length_le (h : q.length ≤ j) : queueCell q j = .empty := by simp [queueCell, h]

theorem queueCell_append_length : queueCell (q ++ [d]) q.length = .full d := by simp [queueCell]

theorem queueCell_append_of_ne (h : j ≠ q.length) : queueCell (q ++ [d]) j = queueCell q j := by
  rcases Nat.lt_or_gt_of_ne h with hlt | hgt
  · simp [queueCell, List.getElem?_append_left hlt]
  · rw [queueCell_of_length_le _ (by simpa using hgt), queueCell_of_length_le _ hgt.le]

/-- The cells of `q` as one list of `K` slots. -/
theorem queueCell_eq_getElem? {K : Nat} (hj : j < K) :
    (q.map Slot.full ++ List.replicate (K - q.length) Slot.empty)[j]? = some (queueCell q j) := by
  rcases Nat.lt_or_ge j q.length with h | h
  · simp [queueCell, h, List.getElem?_append_left]
  · rw [queueCell_of_length_le q h, List.getElem?_append_right (by simpa using h), List.getElem?_replicate,
      if_pos (by simp; omega)]

end

/-! ### The ring that holds a queue -/

/-- The ring holds the queue `q`: what was written is what was read and then `q`, the cursors are where the histories
put them, and the slot at offset `j` from `RB_RD` is the `j`-th cell of `q`. -/
structure RingQueue (rx : RxState) (q : List Block) : Prop where
  two_le : 2 ≤ rx.rbK
  slots_length : rx.slots.length = rx.rbK
  length_le : q.length ≤ rx.rbK
  wseq_eq : rx.rbWseq = rx.rbRseq ++ q
  wr_eq : rx.rbWr = rx.rbWseq.length % rx.rbK
  rd_eq : rx.rbRd = rx.rbRseq.length % rx.rbK
  cell_eq : ∀ j < rx.rbK, slotRead rx ((rx.rbRd + j) % rx.rbK) = some (queueCell q j)

section
variable {rx : RxState} {q : List Block}

theorem RingQueue.rbK_pos (h : RingQueue rx q) : 0 < rx.rbK := Nat.zero_lt_of_lt h.two_le

theorem RingQueue.rbRd_lt (h : RingQueue rx q) : rx.rbRd < rx.rbK := h.rd_eq ▸ Nat.mod_lt _ h.rbK_pos

theorem RingQueue.pendingBlocks_eq (h : RingQueue rx q) : pendingBlocks rx = q := by
  rw [pendingBlocks, h.wseq_eq, List.drop_left]

/-- The write cursor is `q.length` slots ahead of the read cursor. -/
theorem RingQueue.wr_eq_rd_add (h : RingQueue rx q) : rx.rbWr = (rx.rbRd + q.length) % rx.rbK := by
  rw [h.wr_eq, h.wseq_eq, List.length_append, h.rd_eq, Nat.mod_add_mod]

theorem rotate_getElem? (hlen : rx.slots.length = rx.rbK) {j : Nat} (hj : j < rx.rbK) :
    (rx.slots.rotate rx.rbRd)[j]? = slotRead rx ((rx.rbRd + j) % rx.rbK) := by
  rw [List.getElem?_rotate (hlen.symm ▸ hj), hlen, Nat.add_comm, slotRead]

/-- The cycle of slots as a list, and slot by slot. -/
theorem cycle_eq_iff (hlen : rx.slots.length = rx.rbK) (hq : q.length ≤ rx.rbK) :
    rx.slots.rotate rx.rbRd = q.map Slot.full ++ List.replicate (rx.rbK - q.length) Slot.empty ↔
      ∀ j < rx.rbK, slotRead rx ((rx.rbRd + j) % rx.rbK) = some (queueCell q j) := by
  constructor
  · intro h j hj
    rw [← rotate_getElem? hlen hj, h, queueCell_eq_getElem? q hj]
  · intro h
    refine List.ext_getElem? fun j => ?_
    rcases Nat.lt_or_ge j rx.rbK with hj | hj
    · rw [rotate_getElem? hlen hj, h j hj, queueCell_eq_getElem? q hj]
    · rw [List.getElem?_eq_none (by simpa [hlen] using hj), List.getElem?_eq_none (by simp; omega)]

theorem ringView_iff_ringQueue : RingView rx ↔ ∃ q, RingQueue rx q := by
  constructor
  · intro h
    exact ⟨pendingBlocks rx, h.two_le, h.slots_length, h.pending_le, (List.prefix_iff_eq_append.mp h.read_first).symm,
      h.wr_eq, h.rd_eq, (cycle_eq_iff h.slots_length h.pending_le).mp h.cycle_eq⟩
  · rintro ⟨q, h⟩
    have hcycle := (cycle_eq_iff h.slots_length h.length_le).mpr h.cell_eq
    rw [← h.pendingBlocks_eq] at hcycle
    exact ⟨h.two_le, h.slots_length, ⟨q, h.wseq_eq.symm⟩, h.pendingBlocks_eq ▸ h.length_le, h.wr_eq, h.rd_eq, hcycle⟩

/-! ### From a queue to R53 -/

/-- The occupancy is the length of the queue: turning the cycle round does not change how many slots are FILLED. -/
theorem RingQueue.occ_eq (h : RingQueue rx q) : occ rx = q.length := by
  have hfull : q.countP ((·.filled) ∘ Slot.full) = q.length := List.countP_eq_length.mpr fun _ _ => rfl
  have hempty (n : Nat) : (List.replicate n (Slot.empty : Slot Block)).countP (·.filled) = 0 := by
    simp [List.countP_replicate, Slot.empty]
  calc occ rx = (rx.slots.rotate rx.rbRd).countP (·.filled) := ((List.rotate_perm _ _).countP_eq _).symm
    _ = q.length := by
      rw [(cycle_eq_iff h.slots_length h.length_le).mpr h.cell_eq, List.countP_append, List.countP_map, hfull, hempty,
        Nat.add_zero]

theorem markerAt_of_slotRead {i : Nat} {c : Slot Block} (h : slotRead rx i = some c) :
    markerAt rx i = some c.filled := by
  have h : rx.slots[i]? = some c := h
  rw [markerAt, h, Option.map_some]

theorem dataAt_of_slotRead {i : Nat} {c : Slot Block} (h : slotRead rx i = some c) : dataAt rx i = c.data := by
  rw [dataAt, h, Option.bind_some]

theorem RingQueue.markerAt_iff (h : RingQueue rx q) {j : Nat} (hj : j < rx.rbK) :
    markerAt rx ((rx.rbRd + j) % rx.rbK) = some true ↔ j < q.length := by
  rw [markerAt_of_slotRead (h.cell_eq j hj), Option.some_inj, queueCell_filled]

theorem RingQueue.dataAt_eq (h : RingQueue rx q) {j : Nat} (hj : j < rx.rbK) :
    dataAt rx ((rx.rbRd + j) % rx.rbK) = q[j]? := by
  rw [dataAt_of_slotRead (h.cell_eq j hj), queueCell_data]

theorem markerAt_eq_false_iff (hlen : rx.slots.length = rx.rbK) {i : Nat} (hi : i < rx.rbK) :
    markerAt rx i = some false ↔ markerAt rx i ≠ some true := by
  simp [markerAt, hlen, hi]

theorem RingQueue.ringInv (h : RingQueue rx q) : RingInv rx where
  two_le := h.two_le
  slots_length := h.slots_length
  occ_le := h.occ_eq ▸ h.length_le
  filled_iff i hi := by
    obtain ⟨j, hj, rfl⟩ := exists_offset h.rbRd_lt hi
    rw [h.markerAt_iff hj, h.occ_eq]
    constructor
    · exact fun hlt => ⟨j, hlt, rfl⟩
    · rintro ⟨j', hlt, heq⟩
      exact add_mod_injective hj (hlt.trans_le h.length_le) heq ▸ hlt
  wr_eq := by rw [h.occ_eq, h.wr_eq_rd_add]
  data_iff i hi := by
    obtain ⟨j, hj, rfl⟩ := exists_offset h.rbRd_lt hi
    rw [markerAt_eq_false_iff h.slots_length hi, ne_eq, h.markerAt_iff hj, h.dataAt_eq hj, List.getElem?_eq_none_iff,
      Nat.not_lt]
  wseq_eq := by
    have hdata : ∀ j ∈ List.range q.length, dataAt rx ((rx.rbRd + j) % rx.rbK) = q[j]? := fun j hj =>
      h.dataAt_eq ((List.mem_range.mp hj).trans_le h.length_le)
    have hq : q.map some = (List.range q.length).map fun j => q[j]? :=
      List.ext_getElem (by simp) fun j _ _ => by simp
    rw [h.wseq_eq, List.map_append, h.occ_eq, List.map_congr_left hdata, hq]
  wseq_mod := h.wr_eq.symm
  rseq_mod := h.rd_eq.symm

/-! ### From R53 to a queue -/

theorem RingInv.slotRead_some (h : RingInv rx) {i : Nat} (hi : i < rx.rbK) : ∃ c, slotRead rx i = some c :=
  ⟨_, List.getElem?_eq_getElem (h.slots_length.symm ▸ hi)⟩

/-- R53(e) read without the `some`s: the blocks not yet read, one for each FILLED slot. -/
theorem RingInv.exists_pending (h : RingInv rx) :
    ∃ q, rx.rbWseq = rx.rbRseq ++ q ∧ q.length = occ rx ∧
      ∀ j < occ rx, dataAt rx ((rx.rbRd + j) % rx.rbK) = q[j]? := by
  obtain ⟨r, q, hsplit, hr, hq⟩ := List.map_eq_append_iff.mp h.wseq_eq
  have hr : r = rx.rbRseq := List.map_injective_iff.mpr (Option.some_injective _) hr
  have hlen : q.length = occ rx := by simpa using congrArg List.length hq
  refine ⟨q, hr ▸ hsplit, hlen, fun j hj => ?_⟩
  have hcell := congrArg (·[j]?) hq
  simp only [List.getElem?_map, List.getElem?_range hj, Option.map_some] at hcell
  simpa [hlen, hj] using hcell.symm

theorem RingInv.exists_ringQueue (h : RingInv rx) : ∃ q, RingQueue rx q := by
  obtain ⟨q, hwseq, hlen, hdata⟩ := h.exists_pending
  refine ⟨q, h.two_le, h.slots_length, hlen ▸ h.occ_le, hwseq, h.wseq_mod.symm, h.rseq_mod.symm, fun j hj => ?_⟩
  have hlt : (rx.rbRd + j) % rx.rbK < rx.rbK := Nat.mod_lt _ (Nat.zero_lt_of_lt hj)
  obtain ⟨⟨filled, data⟩, hcell⟩ := h.slotRead_some hlt
  have hmarker := markerAt_of_slotRead hcell
  have hdataAt := dataAt_of_slotRead hcell
  rw [hcell]
  rcases Nat.lt_or_ge j (occ rx) with hfull | hempty
  · have htrue : markerAt rx ((rx.rbRd + j) % rx.rbK) = some true := (h.filled_iff _ hlt).mpr ⟨j, hfull, rfl⟩
    have hd : data = q[j]? := hdataAt.symm.trans (hdata j hfull)
    have hf : filled = true := Option.some_inj.mp (hmarker.symm.trans htrue)
    have hj' : j < q.length := hlen.symm ▸ hfull
    simp [hf, hd, hj', queueCell, Slot.full]
  · have hne : markerAt rx ((rx.rbRd + j) % rx.rbK) ≠ some true := fun htrue => by
      obtain ⟨j', hj', heq⟩ := (h.filled_iff _ hlt).mp htrue
      have : j = j' := add_mod_injective hj (hj'.trans_le h.occ_le) heq
      omega
    have hfalse := (markerAt_eq_false_iff h.slots_length hlt).mpr hne
    have hf : filled = false := Option.some_inj.mp (hmarker.symm.trans hfalse)
    have hd : data = none := hdataAt.symm.trans ((h.data_iff _ hlt).mpr hfalse)
    rw [queueCell_of_length_le q (hlen.symm ▸ hempty), hf, hd, Slot.empty]

theorem ringInv_iff_ringQueue : RingInv rx ↔ ∃ q, RingQueue rx q :=
  ⟨RingInv.exists_ringQueue, fun ⟨_, h⟩ => h.ringInv⟩

/-! ### What each ring operation does to the queue (R76) -/

theorem buildRing_ringQueue {k : Nat} (hk : 2 ≤ k) : RingQueue (buildRing k) [] where
  two_le := hk
  slots_length := List.length_replicate
  length_le := Nat.zero_le k
  wseq_eq := rfl
  wr_eq := (Nat.zero_mod k).symm
  rd_eq := (Nat.zero_mod k).symm
  cell_eq j hj := by
    have hlt : (0 + j) % k < k := Nat.mod_lt _ (Nat.zero_lt_of_lt hj)
    exact (List.getElem?_replicate ..).trans (if_pos hlt)

/-- If the slot at `RB_WR` is EMPTY there is room: else the cursors agree and that slot is the head of the queue. -/
theorem RingQueue.length_lt_of_empty (h : RingQueue rx q) {c : Slot Block} (hc : slotRead rx rx.rbWr = some c)
    (hempty : c.filled = false) : q.length < rx.rbK := by
  refine Nat.lt_of_le_of_ne h.length_le fun hfull => ?_
  have hcursors : rx.rbWr = (rx.rbRd + 0) % rx.rbK := by
    rw [h.wr_eq_rd_add, hfull, Nat.add_mod_right, Nat.add_zero]
  rw [hcursors, h.cell_eq 0 h.rbK_pos, Option.some_inj] at hc
  have hhead : (queueCell q 0).filled = true := (queueCell_filled q).mpr (hfull ▸ h.rbK_pos)
  rw [hc, hempty] at hhead
  cases hhead

/-- R76, R183: an accepted write appends to the queue. -/
theorem RingQueue.after_fillSlot (h : RingQueue rx q) (d : Block) {c : Slot Block}
    (hc : slotRead rx rx.rbWr = some c) (hempty : c.filled = false) : RingQueue (fillSlot d rx) (q ++ [d]) where
  two_le := h.two_le
  slots_length := by simpa using h.slots_length
  length_le := by simpa using h.length_lt_of_empty hc hempty
  wseq_eq := by simp [h.wseq_eq]
  wr_eq := by simp [h.wr_eq]
  rd_eq := h.rd_eq
  cell_eq j hj := by
    have hroom := h.length_lt_of_empty hc hempty
    change slotRead (slotWrite rx rx.rbWr (.full d)) ((rx.rbRd + j) % rx.rbK) = _
    by_cases hlast : j = q.length
    · rw [hlast, ← h.wr_eq_rd_add, slotRead_slotWrite_same _ (slotRead_lt hc), queueCell_append_length]
    · have hother : rx.rbWr ≠ (rx.rbRd + j) % rx.rbK := fun heq =>
        hlast (add_mod_injective hj hroom (h.wr_eq_rd_add ▸ heq.symm))
      rw [slotRead_slotWrite_other _ hother, h.cell_eq j hj, queueCell_append_of_ne q d hlast]

/-- What a read finds at `RB_RD` is the head of the queue. -/
theorem RingQueue.eq_cons_of_data (h : RingQueue rx q) {c : Slot Block} {d : Block}
    (hc : slotRead rx rx.rbRd = some c) (hd : c.data = some d) : ∃ q', q = d :: q' := by
  have hhead := h.cell_eq 0 h.rbK_pos
  rw [Nat.add_zero, Nat.mod_eq_of_lt h.rbRd_lt, hc, Option.some_inj] at hhead
  rw [hhead, queueCell_data] at hd
  cases q with
  | nil => cases hd
  | cons a q' => exact ⟨q', by rw [Option.some_inj.mp hd]⟩

/-- R76, R185: an accepted read takes the head of the queue; the slot it clears becomes the last of the cycle. -/
theorem RingQueue.after_drainSlot {d : Block} (h : RingQueue rx (d :: q)) : RingQueue (drainSlot d rx) q where
  two_le := h.two_le
  slots_length := by simpa using h.slots_length
  length_le := (Nat.le_succ _).trans h.length_le
  wseq_eq := by simp [h.wseq_eq]
  wr_eq := h.wr_eq
  rd_eq := by simp [h.rd_eq]
  cell_eq j hj := by
    have hj : j < rx.rbK := hj
    change slotRead (slotWrite rx rx.rbRd .empty) (((rx.rbRd + 1) % rx.rbK + j) % rx.rbK) = _
    rw [Nat.mod_add_mod, Nat.add_assoc, Nat.add_comm 1 j]
    rcases Nat.lt_or_ge (j + 1) rx.rbK with hinner | hlast
    · have hother : rx.rbRd ≠ (rx.rbRd + (j + 1)) % rx.rbK := fun heq => by
        have hzero : (rx.rbRd + 0) % rx.rbK = (rx.rbRd + (j + 1)) % rx.rbK := by
          rwa [Nat.add_zero, Nat.mod_eq_of_lt h.rbRd_lt]
        exact absurd (add_mod_injective h.rbK_pos hinner hzero) (Nat.succ_ne_zero j).symm
      rw [slotRead_slotWrite_other _ hother, h.cell_eq _ hinner, queueCell_cons_succ]
    · have hround : (rx.rbRd + (j + 1)) % rx.rbK = rx.rbRd := by
        rw [show j + 1 = rx.rbK from Nat.le_antisymm hj hlast, Nat.add_mod_right, Nat.mod_eq_of_lt h.rbRd_lt]
      have hshort : q.length ≤ j := Nat.le_of_succ_le_succ (h.length_le.trans hlast)
      rw [hround, slotRead_slotWrite_same _ (h.slots_length.symm ▸ h.rbRd_lt), queueCell_of_length_le q hshort]

/-- The flag of R45 is no part of R53. -/
theorem RingInv.after_setDone (h : RingInv rx) : RingInv { rx with rbDone := true } :=
  ⟨h.two_le, h.slots_length, h.occ_le, h.filled_iff, h.wr_eq, h.data_iff, h.wseq_eq, h.wseq_mod, h.rseq_mod⟩

end

/-! ### What one transition can do to the RX elements -/

/-- From `s`, one transition leaves the RX elements named. -/
inductive RxEffect (s : State) : RxState → Prop where
  /-- a TX operation, the scheduler's turn, `RST_TX`, `RB_GET_DONE`, a refusal or `ST_WAIT` -/
  | unchanged : RxEffect s s.rx
  /-- an accepted `RB_INIT` (R181) -/
  | build (k : Nat) (turn : NextIsCommand s (.rbInit k)) (unbuilt : s.rx.rbState = .unbuilt) (two_le : 2 ≤ k) :
      RxEffect s (buildRing k)
  /-- an accepted `RB_WRITE` (R183) -/
  | fill (d : Block) (c : Slot Block) (turn : NextIsCommand s (.rbWrite d)) (built : s.rx.rbState = .built)
      (notDone : s.rx.rbDone = false) (cell : slotRead s.rx s.rx.rbWr = some c) (empty : c.filled = false) :
      RxEffect s (fillSlot d s.rx)
  /-- an accepted `RB_READ` (R185) -/
  | drain (d : Block) (c : Slot Block) (turn : NextIsCommand s .rbRead) (built : s.rx.rbState = .built)
      (cell : slotRead s.rx s.rx.rbRd = some c) (filled : c.filled = true) (data : c.data = some d) :
      RxEffect s (drainSlot d s.rx)
  /-- an accepted `RB_SET_DONE` (R187) -/
  | setDone (turn : NextIsCommand s .rbSetDone) (built : s.rx.rbState = .built) :
      RxEffect s { s.rx with rbDone := true }
  /-- an accepted `RB_FREE` (R189), or `RST_RX` (R280, R283) -/
  | reset (turn : NextIsCommand s .rbFree ∧ s.rx.rbState = .built ∨ NextIsRstRx s) : RxEffect s RxState.reset

section
variable {P : Params} {s t : State}

theorem RxEffect.of_unchanged (h : t.rx = s.rx) : RxEffect s t.rx := h ▸ .unchanged

theorem rxEffect_of_txCommand {i : Instr} {ts : List Turn} (hi : isTxOp i = true)
    (h : exec i (s.withTurns ts) = .next t) : RxEffect s t.rx :=
  have hrx : t.rx = (s.withTurns ts).rx := exec_rx_of_isTxOp hi h
  .of_unchanged hrx

theorem rxEffect_of_command {i : Instr} {ts : List Turn} (turn : NextIsCommand s i)
    (h : execFor P i (s.withTurns ts) = .next t) : RxEffect s t.rx := by
  cases i with
  | encode payload => obtain ⟨-, rfl⟩ | ⟨-, -, rfl⟩ | ⟨-, -, rfl⟩ := execEncodeWith_next h <;> exact .unchanged
  | gap => exact rxEffect_of_txCommand (i := .gap) rfl h
  | pulse => exact rxEffect_of_txCommand (i := .pulse) rfl h
  | actInit => exact rxEffect_of_txCommand (i := .actInit) rfl h
  | transmit T G => exact rxEffect_of_txCommand (i := .transmit T G) rfl h
  | cancel => exact rxEffect_of_txCommand (i := .cancel) rfl h
  | actShutdown => exact rxEffect_of_txCommand (i := .actShutdown) rfl h
  | rbInit k =>
    obtain ⟨-, rfl⟩ | ⟨-, -, rfl⟩ | ⟨unbuilt, two_le, rfl⟩ := execRbInit_next h
    · exact .unchanged
    · exact .unchanged
    · exact .build k turn unbuilt two_le
  | rbWrite d =>
    obtain ⟨-, rfl⟩ | ⟨built, notDone, c, cell, ⟨-, rfl⟩ | ⟨empty, rfl⟩⟩ := execRbWrite_next h
    · exact .unchanged
    · exact .unchanged
    · exact .fill d c turn built notDone cell empty
  | rbRead =>
    obtain ⟨-, rfl⟩ | ⟨built, c, cell, ⟨-, rfl⟩ | ⟨filled, d, data, rfl⟩⟩ := execRbRead_next h
    · exact .unchanged
    · exact .unchanged
    · exact .drain d c turn built cell filled data
  | rbSetDone =>
    obtain ⟨-, rfl⟩ | ⟨built, rfl⟩ := execRbSetDone_next h
    · exact .unchanged
    · exact .setDone turn built
  | rbGetDone => obtain ⟨-, rfl⟩ | ⟨-, rfl⟩ := execRbGetDone_next h <;> exact .unchanged
  | rbFree =>
    obtain ⟨-, rfl⟩ | ⟨built, rfl⟩ := execRbFree_next h
    · exact .unchanged
    · exact .reset (.inl ⟨turn, built⟩)

theorem rxEffect_of_sched {ts : List Turn} (h : schedulerTurn (s.withTurns ts) = .next t) : RxEffect s t.rx := by
  obtain ⟨-, rfl⟩ | ⟨-, hstep⟩ := schedulerTurn_next h
  · exact .unchanged
  · obtain ⟨b, -, ⟨-, rfl⟩ | ⟨-, rfl⟩⟩ := schedulerStep_next hstep
    · exact .unchanged
    · exact .unchanged

/-- Everything one transition can do to the RX elements. -/
theorem nextTransition_rxEffect (h : nextTransition P s = .next t) : RxEffect s t.rx := by
  obtain ⟨-, hsched⟩ | ⟨p, op, a, ts, hts, hcmd⟩ | ⟨ts, hts, rfl⟩ | ⟨ts, hts, rfl⟩ := nextTransition_next h
  · exact rxEffect_of_sched hsched
  · obtain ⟨i, hdecode, hexec⟩ | ⟨r, -, rfl⟩ := commandTurn_next hcmd
    · exact rxEffect_of_command ⟨_, ts, hts, p, op, a, rfl, hdecode⟩ hexec
    · exact .unchanged
  · exact .unchanged
  · exact .reset (.inr ⟨ts, hts⟩)

/-- Everything one step can do to the RX elements. -/
theorem step_rxEffect (h : step s = .next t) : RxEffect s t.rx := nextTransition_rxEffect h

end

/-! ### The invariants R53 and the slot count over one transition -/

section
variable {s : State} {rx : RxState}

theorem RxInv.ringInv_of_built (h : RxInv rx) (hbuilt : rx.rbState = .built) : RingInv rx := by
  simpa [RxInv, hbuilt] using h

theorem RingInv.rxInv_of_built (h : RingInv rx) (hbuilt : rx.rbState = .built) : RxInv rx := by
  simpa [RxInv, hbuilt] using h

/-- R53 is kept by every case of a transition. -/
theorem RxEffect.rxInv (e : RxEffect s rx) (h : RxInv s.rx) : RxInv rx := by
  cases e with
  | unchanged => exact h
  | build k _ _ two_le => exact (buildRing_ringQueue two_le).ringInv
  | fill d c _ built _ cell empty =>
    obtain ⟨q, hq⟩ := (h.ringInv_of_built built).exists_ringQueue
    exact (hq.after_fillSlot d cell empty).ringInv.rxInv_of_built built
  | drain d c _ built cell _ data =>
    obtain ⟨q, hq⟩ := (h.ringInv_of_built built).exists_ringQueue
    obtain ⟨q', rfl⟩ := hq.eq_cons_of_data cell data
    exact hq.after_drainSlot.ringInv.rxInv_of_built built
  | setDone _ built => exact (h.ringInv_of_built built).after_setDone.rxInv_of_built built
  | reset _ => rfl

/-- The slot count is stated or left alone together with the slots (R40). -/
theorem RxEffect.rbK_eq_length (e : RxEffect s rx) (h : s.rx.rbK = s.rx.slots.length) :
    rx.rbK = rx.slots.length := by
  cases e with
  | unchanged => exact h
  | build k _ _ _ => exact buildRing_wf k
  | fill d _ _ _ _ _ _ => exact fillSlot_wf d h
  | drain d _ _ _ _ _ _ => exact drainSlot_wf d h
  | setDone _ _ => exact h
  | reset _ => rfl

end

end Sys2Proof.Machine

namespace Sys2Proof.Proofs

open Sys2Proof.Machine

/-- Settles O54, over each case of a step. -/
theorem stepKeepsRxInvariant : Obligations.StepKeepsRxInvariant := by
  unfold Obligations.StepKeepsRxInvariant
  exact fun s t hinv h => (step_rxEffect h).rxInv hinv

/-- Settles O39: both sides say that the ring holds some queue. -/
theorem ringInvariantIsAQueue : Obligations.RingInvariantIsAQueue := by
  unfold Obligations.RingInvariantIsAQueue
  exact fun rx => ringInv_iff_ringQueue.trans ringView_iff_ringQueue.symm

/-- Settles O56, over each case of a step, path by path. -/
theorem stepKeepsMemoryForm : Obligations.StepKeepsMemoryForm := by
  unfold Obligations.StepKeepsMemoryForm
  rintro s t ⟨hpay, hbits, hslots⟩ h
  obtain ⟨cs, e, -⟩ := step_hasTxEffect h
  obtain ⟨hpay', hbits'⟩ := e.lengths hpay hbits
  exact ⟨hpay', hbits', (step_rxEffect h).rbK_eq_length hslots⟩

end Sys2Proof.Proofs

/-! The ghost histories decide nothing (R46): each ring operation on a ring and on the ring without its histories does
the same but for the histories, so it does the same on any two rings that differ in the histories alone. -/

namespace Sys2Proof.Machine

/-! ### Ring operations without the histories -/

/-- What a ring operation does, without the histories of the ring it leaves. -/
@[simp]
def RingAnswer.withoutGhost {β : Type} (a : RingAnswer β) : RingAnswer β :=
  match a with
  | .ok v rx => .ok v rx.withoutGhost
  | .refuse st => .refuse st
  | .stop f => .stop f

/-- The ring operation looks at no history. -/
def GhostBlind {β : Type} (op : RxStateOf β → RingAnswer β) : Prop :=
  ∀ rx, (op rx.withoutGhost).withoutGhost = (op rx).withoutGhost

section
variable {β : Type}

/-- Two rings that differ in the histories alone get answers that differ in them alone. -/
theorem GhostBlind.congr {op : RxStateOf β → RingAnswer β} (hop : GhostBlind op) {rx rx' : RxStateOf β}
    (h : rx'.withoutGhost = rx.withoutGhost) : (op rx').withoutGhost = (op rx).withoutGhost := by
  rw [← hop rx', h, hop rx]

section
variable (rx : RxStateOf β) (d : β)

@[simp] theorem withoutGhost_rbState : rx.withoutGhost.rbState = rx.rbState := rfl
@[simp] theorem withoutGhost_rbWr : rx.withoutGhost.rbWr = rx.rbWr := rfl
@[simp] theorem withoutGhost_rbRd : rx.withoutGhost.rbRd = rx.rbRd := rfl
@[simp] theorem withoutGhost_rbDone : rx.withoutGhost.rbDone = rx.rbDone := rfl
@[simp] theorem slotRead_withoutGhost (i : Nat) : slotRead rx.withoutGhost i = slotRead rx i := rfl
@[simp] theorem withoutGhost_withoutGhost : rx.withoutGhost.withoutGhost = rx.withoutGhost := rfl

@[simp] theorem fillSlot_withoutGhost : (fillSlot d rx.withoutGhost).withoutGhost = (fillSlot d rx).withoutGhost := rfl

@[simp] theorem drainSlot_withoutGhost :
    (drainSlot d rx.withoutGhost).withoutGhost = (drainSlot d rx).withoutGhost := rfl

end

theorem ringInit_ghostBlind (k : Nat) : GhostBlind (ringInit k : RxStateOf β → RingAnswer β) := fun _ => rfl

theorem ringWrite_ghostBlind (d : β) : GhostBlind (ringWrite d) := fun rx => by
  obtain ⟨hb | hd, -⟩ | ⟨hb, hd, ⟨hc, -⟩ | ⟨c, hc, ⟨hf, -⟩ | ⟨hf, -⟩⟩⟩ := ringWrite_cases d rx
  · simp [ringWrite, hb]
  · simp [ringWrite, hd]
  · simp [ringWrite, hb, hd, hc]
  · simp [ringWrite, hb, hd, hc, hf]
  · simp [ringWrite, hb, hd, hc, hf]

theorem ringRead_ghostBlind : GhostBlind (ringRead : RxStateOf β → RingAnswer β) := fun rx => by
  obtain ⟨hb, -⟩ | ⟨hb, ⟨hc, -⟩ | ⟨c, hc, ⟨hf, -⟩ | ⟨hf, hn, -⟩ | ⟨hf, d, hd, -⟩⟩⟩ := ringRead_cases rx
  · simp [ringRead, hb]
  · simp [ringRead, hb, hc]
  · simp [ringRead, hb, hc, hf]
  · simp [ringRead, hb, hc, hf, hn]
  · simp [ringRead, hb, hc, hf, hd]

theorem ringSetDone_ghostBlind : GhostBlind (ringSetDone : RxStateOf β → RingAnswer β) := fun rx => by
  cases hb : rx.rbState with
  | unbuilt => simp [ringSetDone, hb]
  | built => simp [ringSetDone, hb, RxStateOf.withoutGhost]

theorem ringGetDone_ghostBlind : GhostBlind (ringGetDone : RxStateOf β → RingAnswer β) := fun rx => by
  cases hb : rx.rbState with
  | unbuilt => simp [ringGetDone, hb]
  | built => simp [ringGetDone, hb]

theorem ringFree_ghostBlind : GhostBlind (ringFree : RxStateOf β → RingAnswer β) := fun rx => by
  cases hb : rx.rbState with
  | unbuilt => simp [ringFree, hb]
  | built => simp [ringFree, hb]

end

/-! ### Operations of the machine with other histories -/

/-- `t` and `u` are the same but for the histories. -/
def EqButGhost (t u : State) : Prop := u.tx = t.tx ∧ u.env = t.env ∧ u.rx.withoutGhost = t.rx.withoutGhost

section
variable {s t : State} {rx : RxState}

/-- Answers that differ in the histories alone complete alike. -/
theorem answerRing_eqButGhost {p : Port} {a b : RingAnswer Block} (hab : b.withoutGhost = a.withoutGhost)
    (hrx : rx.withoutGhost = s.rx.withoutGhost) (h : answerRing p a s = .next t) :
    ∃ u, answerRing p b (s.withRx rx) = .next u ∧ EqButGhost t u := by
  obtain ⟨v, ring, rfl, rfl⟩ | ⟨st, rfl, rfl⟩ := answerRing_next h
  · cases b with
    | ok v' ring' =>
      obtain ⟨rfl, hring⟩ := RingAnswer.ok.inj hab
      exact ⟨_, rfl, rfl, rfl, hring⟩
    | refuse st => cases hab
    | stop f => cases hab
  · cases b with
    | ok v' ring' => cases hab
    | refuse st' =>
      cases RingAnswer.refuse.inj hab
      exact ⟨_, rfl, rfl, rfl, hrx⟩
    | stop f => cases hab

/-- A ring operation with other histories. -/
theorem GhostBlind.answerRing_eqButGhost {op : RxState → RingAnswer Block} (hop : GhostBlind op) {p : Port}
    (hrx : rx.withoutGhost = s.rx.withoutGhost) (h : answerRing p (op s.rx) s = .next t) :
    ∃ u, answerRing p (op rx) (s.withRx rx) = .next u ∧ EqButGhost t u :=
  Machine.answerRing_eqButGhost (hop.congr hrx) hrx h

/-- A TX operation does not see the RX elements at all (R18). -/
theorem exec_eqButGhost_of_isTxOp {i : Instr} (hi : isTxOp i = true) (hrx : rx.withoutGhost = s.rx.withoutGhost)
    (h : exec i s = .next t) : ∃ u, exec i (s.withRx rx) = .next u ∧ EqButGhost t u :=
  ⟨t.withRx rx, by rw [exec_withRx s rx hi, h, onNext_next], rfl, rfl, by
    rw [State.withRx_rx, hrx, exec_rx_of_isTxOp hi h]⟩

theorem exec_eqButGhost {i : Instr} (hrx : rx.withoutGhost = s.rx.withoutGhost) (h : exec i s = .next t) :
    ∃ u, exec i (s.withRx rx) = .next u ∧ EqButGhost t u := by
  cases i with
  | rbInit k => exact (ringInit_ghostBlind k).answerRing_eqButGhost (p := .rxh) hrx h
  | rbWrite d => exact (ringWrite_ghostBlind d).answerRing_eqButGhost (p := .prd) hrx h
  | rbRead => exact ringRead_ghostBlind.answerRing_eqButGhost (p := .cns) hrx h
  | rbSetDone => exact ringSetDone_ghostBlind.answerRing_eqButGhost (p := .prd) hrx h
  | rbGetDone => exact ringGetDone_ghostBlind.answerRing_eqButGhost (p := .cns) hrx h
  | rbFree => exact ringFree_ghostBlind.answerRing_eqButGhost (p := .rxh) hrx h
  | _ => exact exec_eqButGhost_of_isTxOp rfl hrx h

end

/-! ### The reset inputs as turns (R280) -/

section
variable {s : State} {ts : List Turn}

theorem step_of_rstTx (h : s.env.turns = .rstTx :: ts) : step s = .next (rstTx (s.withTurns ts)) := by
  rw [step, nextTransition, h]
  rfl

theorem step_of_rstRx (h : s.env.turns = .rstRx :: ts) : step s = .next (rstRx (s.withTurns ts)) := by
  rw [step, nextTransition, h]
  rfl

end

end Sys2Proof.Machine

namespace Sys2Proof.Proofs

open Sys2Proof.Machine

/-- Settles O50: a TX operation sees no RX element, a ring operation no history. -/
theorem ghostHistoriesAreInert : Obligations.GhostHistoriesAreInert := by
  unfold Obligations.GhostHistoriesAreInert
  exact fun i s t w r h => exec_eqButGhost rfl h

/-- Settles O51, the reset inputs each as one turn. -/
theorem resetValuesAndInputs : Obligations.ResetValuesAndInputs := by
  unfold Obligations.ResetValuesAndInputs
  exact ⟨rfl, rfl, fun s => ⟨rfl, rfl⟩, fun s ts => step_of_rstTx, fun s ts => step_of_rstRx⟩

/-- Settles O52: the TX side by R52 at reset, the RX side as the unbuilt ring. -/
theorem invariantHoldsAtReset : Obligations.InvariantHoldsAtReset := by
  unfold Obligations.InvariantHoldsAtReset
  exact ⟨reset_txInv Config.params, rfl⟩

end Sys2Proof.Proofs

/-! Sound states never stop (R68), and every run of them is FIFO (R200). What a step does is said forward, by the turn
that stands next: a TX operation always answers, a ring operation stops only where R53 is broken, and the fetch only
where R52(d) is. -/

namespace Sys2Proof.Machine

/-! ### The step by the turn that stands next (R74) -/

section
variable {s : State} {p : Port} {op : BitVec 4} {a : Operands} {ts : List Turn} {i : Instr} {b : Bit} {u : State}

theorem step_of_nextIsSched (h : NextIsSched s) : step s = schedulerTurn (s.withTurns s.env.turns.tail) := by
  obtain h | ⟨ts, h⟩ := h
  · have hsame : s.withTurns s.env.turns.tail = s := by rw [h, List.tail_nil, ← h]; rfl
    rw [hsame, step, nextTransition, h]
  · rw [step, nextTransition, h]
    rfl

theorem step_of_cmd (h : s.env.turns = .cmd p op a :: ts) :
    step s = commandTurn Config.params p op a (s.withTurns ts) := by
  rw [step, nextTransition, h]
  rfl

theorem commandTurn_of_ok (h : decode (.cmd4 p op a) = .ok i) : commandTurn Config.params p op a s = exec i s := by
  rw [commandTurn, h]
  exact execFor_params i s

theorem commandTurn_of_rejected {r : Reject} (h : decode (.cmd4 p op a) = .rejected r) :
    commandTurn Config.params p op a s = .next (s.respond p (.plain .illegal)) := by
  rw [commandTurn, h]
  rfl

/-- The `STEP` of a bit that is there: the symbol, then the advance (R150). -/
theorem schedulerStep_of_symbol (hfetch : fetchBit s.tx = some b) (h : exec (decodeSym1 b) s = .next u) :
    schedulerStep s = .next (u.withTx (advanceBit s.tx.bitIdx u.tx)) := by
  rw [schedulerStep, hfetch]
  exact congrArg (afterSymbol s.tx.bitIdx) h

/-! ### Operations that answer -/

/-- No TX operation stops, in any state. -/
theorem exec_completes_of_isTxOp (hi : isTxOp i = true) (s : State) : ∃ t, exec i s = .next t := by
  cases i with
  | gap => exact ⟨_, rfl⟩
  | pulse => exact ⟨_, rfl⟩
  | encode payload =>
    change ∃ t, execEncodeWith Config.params payload s = .next t
    unfold execEncodeWith
    split_ifs <;> exact ⟨_, rfl⟩
  | actInit =>
    change ∃ t, execActInit s = .next t
    unfold execActInit
    split_ifs <;> exact ⟨_, rfl⟩
  | transmit T G =>
    change ∃ t, execTransmit T G s = .next t
    unfold execTransmit
    split_ifs <;> exact ⟨_, rfl⟩
  | cancel => exact ⟨_, rfl⟩
  | actShutdown =>
    change ∃ t, execActShutdown s = .next t
    unfold execActShutdown
    split_ifs <;> exact ⟨_, rfl⟩
  | _ => cases hi

theorem isTxOp_decodeSym1 (b : Bit) : isTxOp (decodeSym1 b) = true := by
  obtain rfl | rfl := bit_zero_or_one b <;> rfl

theorem answerRing_completes {r : RingAnswer Block} (h : ∀ f, r ≠ .stop f) (p : Port) (s : State) :
    ∃ t, answerRing p r s = .next t := by
  cases r with
  | ok v rx => exact ⟨_, rfl⟩
  | refuse st => exact ⟨_, rfl⟩
  | stop f => exact absurd rfl (h f)

end

/-! ### The ring operations never stop on a sound ring (R53) -/

section
variable {rx : RxState}

theorem RingInv.rbWr_lt (h : RingInv rx) : rx.rbWr < rx.rbK :=
  h.wseq_mod ▸ Nat.mod_lt _ (Nat.zero_lt_of_lt h.two_le)

theorem RingInv.rbRd_lt (h : RingInv rx) : rx.rbRd < rx.rbK :=
  h.rseq_mod ▸ Nat.mod_lt _ (Nat.zero_lt_of_lt h.two_le)

/-- A FILLED slot holds a Block, by R53(d). -/
theorem RingInv.data_ne_none (h : RingInv rx) {i : Nat} {c : Slot Block} (hi : i < rx.rbK) (hc : slotRead rx i = some c)
    (hfilled : c.filled = true) : c.data ≠ none := by
  rw [← dataAt_of_slotRead hc, ne_eq, h.data_iff i hi, markerAt_of_slotRead hc, hfilled]
  decide

theorem RxInv.ringWrite_ne_stop (h : RxInv rx) (d : Block) (f : Fault) : ringWrite d rx ≠ .stop f := by
  obtain ⟨-, e⟩ | ⟨built, -, ⟨hnone, -⟩ | ⟨c, -, ⟨-, e⟩ | ⟨-, e⟩⟩⟩ := ringWrite_cases d rx
  · simp [e]
  · have hring := h.ringInv_of_built built
    obtain ⟨c, hc⟩ := hring.slotRead_some hring.rbWr_lt
    simp [hc] at hnone
  · simp [e]
  · simp [e]

theorem RxInv.ringRead_ne_stop (h : RxInv rx) (f : Fault) : ringRead rx ≠ .stop f := by
  obtain ⟨-, e⟩ | ⟨built, ⟨hnone, -⟩ | ⟨c, hc, ⟨-, e⟩ | ⟨hfilled, hdata, -⟩ | ⟨-, d, -, e⟩⟩⟩ := ringRead_cases rx
  · simp [e]
  · have hring := h.ringInv_of_built built
    obtain ⟨c, hc⟩ := hring.slotRead_some hring.rbRd_lt
    simp [hc] at hnone
  · simp [e]
  · have hring := h.ringInv_of_built built
    exact absurd hdata (hring.data_ne_none hring.rbRd_lt hc hfilled)
  · simp [e]

theorem ringInit_ne_stop (k : Nat) (rx : RxState) (f : Fault) : ringInit k rx ≠ .stop f := by
  obtain ⟨-, e⟩ | ⟨-, -, e⟩ | ⟨-, -, e⟩ := ringInit_cases k rx <;> simp [e]

theorem ringSetDone_ne_stop (rx : RxState) (f : Fault) : ringSetDone rx ≠ .stop f := by
  obtain ⟨-, e, -, -⟩ | ⟨-, e, -, -⟩ := ringFlag_cases rx <;> simp [e]

theorem ringGetDone_ne_stop (rx : RxState) (f : Fault) : ringGetDone rx ≠ .stop f := by
  obtain ⟨-, -, e, -⟩ | ⟨-, -, e, -⟩ := ringFlag_cases rx <;> simp [e]

theorem ringFree_ne_stop (rx : RxState) (f : Fault) : ringFree rx ≠ .stop f := by
  obtain ⟨-, -, -, e⟩ | ⟨-, -, -, e⟩ := ringFlag_cases rx <;> simp [e]

end

/-! ### Sound states: every step and every run answers (R68) -/

section
variable {s t : State}

theorem exec_completes (h : RxInv s.rx) (i : Instr) : ∃ t, exec i s = .next t := by
  cases i with
  | rbInit k => exact answerRing_completes (ringInit_ne_stop k s.rx) .rxh s
  | rbWrite d => exact answerRing_completes (h.ringWrite_ne_stop d) .prd s
  | rbRead => exact answerRing_completes h.ringRead_ne_stop .cns s
  | rbSetDone => exact answerRing_completes (ringSetDone_ne_stop s.rx) .prd s
  | rbGetDone => exact answerRing_completes (ringGetDone_ne_stop s.rx) .cns s
  | rbFree => exact answerRing_completes (ringFree_ne_stop s.rx) .rxh s
  | _ => exact exec_completes_of_isTxOp rfl s

/-- During a run the program counter is an index of `BITS` (R52(a), R52(d)). -/
theorem TxInv.exists_fetchBit {P : Params} {tx : TxState} (h : TxInv P tx) (hrun : tx.txState = .run) :
    ∃ b, fetchBit tx = some b := by
  obtain ⟨-, -, hlt⟩ := h.run_ready hrun
  exact ⟨_, List.getElem?_eq_getElem (h.nbits_eq ▸ hlt)⟩

theorem schedulerTurn_completes {P : Params} (h : TxInv P s.tx) : ∃ t, schedulerTurn s = .next t := by
  by_cases hrun : s.tx.txState = .run
  · obtain ⟨b, hfetch⟩ := h.exists_fetchBit hrun
    obtain ⟨u, hu⟩ := exec_completes_of_isTxOp (isTxOp_decodeSym1 b) s
    exact ⟨_, (if_pos hrun).trans (schedulerStep_of_symbol hfetch hu)⟩
  · exact ⟨s, if_neg hrun⟩

theorem Sound.step_completes (h : Sound s) : ∃ t, step s = .next t := by
  cases hturns : s.env.turns with
  | nil =>
    rw [step_of_nextIsSched (.inl hturns)]
    exact schedulerTurn_completes (s := s.withTurns _) h.tx
  | cons u ts =>
    cases u with
    | cmd p op a =>
      rw [step_of_cmd hturns]
      cases hd : decode (.cmd4 p op a) with
      | ok i =>
        rw [commandTurn_of_ok hd]
        exact exec_completes (s := s.withTurns ts) h.rx i
      | rejected r => exact ⟨_, commandTurn_of_rejected hd⟩
    | sched =>
      rw [step_of_nextIsSched (.inr ⟨ts, hturns⟩)]
      exact schedulerTurn_completes (s := s.withTurns _) h.tx
    | rstTx => exact ⟨_, step_of_rstTx hturns⟩
    | rstRx => exact ⟨_, step_of_rstRx hturns⟩

theorem Sound.after_step (h : Sound s) (hstep : step s = .next t) : Sound t :=
  ⟨nextTransition_txInv h.tx hstep, (step_rxEffect hstep).rxInv h.rx⟩

/-- A predicate under which every step answers and stays in it carries over to runs of every length. -/
theorem run_completes {I : State → Prop} (hI : ∀ s, I s → ∃ t, step s = .next t ∧ I t) (n : Nat) :
    ∀ s, I s → ∃ t, Host.Core.run Sys2Proof.core n s = .next t ∧ I t := by
  induction n with
  | zero => exact fun s hs => ⟨s, rfl, hs⟩
  | succ n ih =>
    intro s hs
    obtain ⟨u, hstep, hu⟩ := hI s hs
    rw [run_succ hstep]
    exact ih u hu

theorem Sound.run_completes (h : Sound s) (n : Nat) :
    ∃ t, Host.Core.run Sys2Proof.core n s = .next t ∧ Sound t := by
  refine Machine.run_completes (fun s hs => ?_) n s h
  obtain ⟨t, hstep⟩ := hs.step_completes
  exact ⟨t, hstep, hs.after_step hstep⟩

/-- The answer of a run is one answer, so a run that answers `t` is the sound one. -/
theorem Sound.after_run (h : Sound s) {n : Nat} (hrun : Host.Core.run Sys2Proof.core n s = .next t) : Sound t := by
  obtain ⟨t', hrun', ht'⟩ := h.run_completes n
  obtain rfl := Host.Outcome.next.inj (hrun'.symm.trans hrun)
  exact ht'

end

/-! ### FIFO (R76, R200) -/

theorem RingQueue.fifo {rx : RxState} {q : List Block} (h : RingQueue rx q) :
    rx.rbRseq <+: rx.rbWseq ∧ (occ rx = 0 → rx.rbRseq = rx.rbWseq) := by
  refine ⟨⟨q, h.wseq_eq.symm⟩, fun hempty => ?_⟩
  have hq : q = [] := List.eq_nil_of_length_eq_zero (h.occ_eq ▸ hempty)
  rw [h.wseq_eq, hq, List.append_nil]

theorem RxInv.fifo {rx : RxState} (h : RxInv rx) :
    rx.rbRseq <+: rx.rbWseq ∧ (occ rx = 0 → rx.rbRseq = rx.rbWseq) := by
  cases hb : rx.rbState with
  | unbuilt =>
    have hreset : rx = RxState.reset := by simpa [RxInv, hb] using h
    subst hreset
    exact ⟨List.prefix_refl _, fun _ => rfl⟩
  | built =>
    obtain ⟨q, hq⟩ := (h.ringInv_of_built hb).exists_ringQueue
    exact hq.fifo

end Sys2Proof.Machine

namespace Sys2Proof.Proofs

open Sys2Proof.Machine

/-- Settles O55: a sound state steps to a sound state, so by induction it runs to one. -/
theorem soundStatesNeverStop : Obligations.SoundStatesNeverStop := by
  unfold Obligations.SoundStatesNeverStop
  exact ⟨fun s h => h.step_completes, fun n s h => h.run_completes n⟩

/-- Settles O43: a run ends in a sound state, and there the ring holds the queue between the two histories. -/
theorem ringIsFifo : Obligations.RingIsFifo := by
  unfold Obligations.RingIsFifo
  exact fun n s t h hrun => (h.after_run hrun).rx.fifo

end Sys2Proof.Proofs

/-! The bits of a transmission: where each payload bit stands in `BITS` (R66), that a run leaves `BITS` alone (R80,
R299), and that a `STEP` runs the symbol it fetches there (R150). -/

namespace Sys2Proof.Machine

/-! ### The bit view of the byte space (R66) -/

section
variable {P : Params} {tx : TxState}

theorem bits8_getElem? (v : Byte) {m : Nat} (hm : m < 8) : (bits8 v)[m]? = some (bitOf v (7 - m)) := by
  interval_cases m <;> rfl

/-- Bit `i` of the payload's bits is bit `7 - i mod 8` of byte `i div 8` (R65). -/
theorem flatMap_bits8_getElem? (payload : List Byte) (i : Nat) :
    (payload.flatMap bits8)[i]? = (payload[i / 8]?).map fun v => bitOf v (7 - i % 8) := by
  induction payload generalizing i with
  | nil => simp
  | cons v vs ih =>
    rw [List.flatMap_cons]
    rcases Nat.lt_or_ge i 8 with hi | hi
    · rw [List.getElem?_append_left hi, bits8_getElem? v hi, Nat.div_eq_of_lt hi, Nat.mod_eq_of_lt hi]
      rfl
    · obtain ⟨k, rfl⟩ := Nat.exists_eq_add_of_le' hi
      rw [List.getElem?_append_right hi, bits8_length, Nat.add_sub_cancel, ih, Nat.add_div_right k (by decide),
        Nat.add_mod_right, List.getElem?_cons_succ]

/-- The assembled bits and `bit_at` are one function of the index, past the last bit too. -/
theorem encodePayload_getElem? (preamble : List Bit) (payload : List Byte) (i : Nat) :
    (encodePayload preamble payload)[i]? = bitAt preamble payload i := by
  unfold encodePayload bitAt
  split
  · next hi => exact List.getElem?_append_left hi
  · next hi => rw [List.getElem?_append_right (Nat.le_of_not_lt hi), flatMap_bits8_getElem?]

theorem bitAt_payload (preamble : List Bit) {payload : List Byte} {j k : Nat} {v : Byte} (hv : payload[j]? = some v)
    (hk : k < 8) : bitAt preamble payload (preamble.length + 8 * j + (7 - k)) = some (bitOf v k) := by
  have hpast : ¬preamble.length + 8 * j + (7 - k) < preamble.length := by omega
  have hoff : preamble.length + 8 * j + (7 - k) - preamble.length = 8 * j + (7 - k) := by omega
  have hbyte : (8 * j + (7 - k)) / 8 = j := by omega
  have hbit : 7 - (8 * j + (7 - k)) % 8 = k := by omega
  rw [bitAt, if_neg hpast, hoff, hbyte, hbit, hv, Option.map_some]

theorem TxInv.bits_getElem? (h : TxInv P tx) (hvalid : tx.bitsValid = true) (i : Nat) :
    tx.bits[i]? = bitAt P.preamble tx.pay i := by rw [h.bits_eq hvalid, encodePayload_getElem?]

end

/-! ### What a run leaves alone (R80, R299) -/

/-- `tx` has the payload, the bits, their lengths and the two durations of `tx₀`. -/
structure SameTransmission (tx₀ tx : TxState) : Prop where
  pay : tx.pay = tx₀.pay
  paylen : tx.paylen = tx₀.paylen
  bits : tx.bits = tx₀.bits
  nbits : tx.nbits = tx₀.nbits
  txT : tx.txT = tx₀.txT
  txG : tx.txG = tx₀.txG

section
variable {P : Params} {s : State} {tx tx' : TxState} {cs : List ActCall}

theorem SameTransmission.refl (tx : TxState) : SameTransmission tx tx := ⟨rfl, rfl, rfl, rfl, rfl, rfl⟩

theorem SameTransmission.after_advanceBit (h : SameTransmission tx tx') (i : Nat) :
    SameTransmission tx (advanceBit i tx') := by
  unfold advanceBit
  split <;> exact ⟨h.pay, h.paylen, h.bits, h.nbits, h.txT, h.txG⟩

theorem SameTransmission.after_cancelRun (h : SameTransmission tx tx') : SameTransmission tx (cancelRun tx') := by
  unfold cancelRun
  split
  · exact ⟨h.pay, h.paylen, h.bits, h.nbits, h.txT, h.txG⟩
  · exact h

theorem applyPulse_sameTransmission (r : PulseAnswer) (tx : TxState) : SameTransmission tx (applyPulse r tx) := by
  cases r with
  | ok => exact ⟨rfl, rfl, rfl, rfl, rfl, rfl⟩
  | err k => exact ⟨rfl, rfl, rfl, rfl, rfl, rfl⟩

theorem applyGap_sameTransmission (tx : TxState) : SameTransmission tx (applyGap tx) :=
  ⟨rfl, rfl, rfl, rfl, rfl, rfl⟩

theorem shutdownActuator_sameTransmission (s : State) : SameTransmission s.tx s.shutdownActuator.tx :=
  ⟨rfl, rfl, rfl, rfl, rfl, rfl⟩

/-- During a run only `CANCEL`, the two symbols and `RST_TX` reach the TX elements. -/
theorem TxEffect.sameTransmission_of_run (e : TxEffect P s tx cs) (hrun : s.tx.txState = .run) (hrst : ¬NextIsRstTx s) :
    SameTransmission s.tx tx := by
  have hidle : s.tx.txState ≠ .idle := by rw [hrun]; decide
  cases e with
  | unchanged => exact .refl _
  | encode _ _ idle => exact absurd idle hidle
  | initAgain _ idle _ => exact absurd idle hidle
  | init _ idle _ => exact absurd idle hidle
  | transmit _ _ _ idle _ _ => exact absurd idle hidle
  | shutdown _ idle _ => exact absurd idle hidle
  | cancelClosed _ _ => exact (SameTransmission.refl _).after_cancelRun
  | cancelOpened _ _ => exact (shutdownActuator_sameTransmission s).after_cancelRun
  | pulse _ _ _ => exact (applyPulse_sameTransmission _ _).after_advanceBit _
  | gap _ _ _ => exact (applyGap_sameTransmission _).after_advanceBit _
  | reset turn => exact absurd turn hrst

/-! ### The `STEP` around a symbol (R150) -/

theorem advanceBit_of_nbits {n : Nat} (i : Nat) (h : tx.nbits = n) :
    advanceBit i tx =
      if i + 1 = n then { tx with bitIdx := i + 1, txState := .idle, txStatus := .done, bitsValid := false }
      else { tx with bitIdx := i + 1 } := by
  subst h
  rfl

theorem exec_decodeSym1_nbits {u : State} (b : Bit) (h : exec (decodeSym1 b) s = .next u) :
    u.tx.nbits = s.tx.nbits := by
  obtain rfl | rfl := bit_zero_or_one b
  · rw [exec_decodeSym1_zero] at h
    obtain rfl := Host.Outcome.next.inj h
    exact (applyGap_sameTransmission s.tx).nbits
  · rw [exec_decodeSym1_one] at h
    obtain rfl := Host.Outcome.next.inj h
    exact (applyPulse_sameTransmission _ s.tx).nbits

theorem step_of_symbol {b : Bit} {u : State} (hrun : s.tx.txState = .run) (hturn : NextIsSched s)
    (hfetch : fetchBit s.tx = some b) (h : exec (decodeSym1 b) (s.withTurns s.env.turns.tail) = .next u) :
    step s = .next (u.withTx (advanceBit s.tx.bitIdx u.tx)) :=
  calc step s = schedulerTurn (s.withTurns s.env.turns.tail) := step_of_nextIsSched hturn
    _ = schedulerStep (s.withTurns s.env.turns.tail) := if_pos hrun
    _ = .next (u.withTx (advanceBit s.tx.bitIdx u.tx)) := schedulerStep_of_symbol (s := s.withTurns _) hfetch h

end

end Sys2Proof.Machine

namespace Sys2Proof.Proofs

open Sys2Proof.Machine

/-- Settles O14, from the bit at each index of an assembled payload. -/
theorem bitViewAgrees : Obligations.BitViewAgrees := by
  unfold Obligations.BitViewAgrees
  constructor
  · exact fun P tx h hvalid i _ => h.bits_getElem? hvalid i
  · exact fun P tx h hvalid j k v hv hk => (h.bits_getElem? hvalid _).trans (bitAt_payload P.preamble hv hk)

/-- Settles O26, from the cases of a step. -/
theorem runSeesOneBitSequence : Obligations.RunSeesOneBitSequence := by
  unfold Obligations.RunSeesOneBitSequence
  intro s t h hrun hrst
  obtain ⟨cs, e, -⟩ := step_hasTxEffect h
  obtain ⟨hpay, hpaylen, hbits, hnbits, hT, hG⟩ := e.sameTransmission_of_run hrun fun ⟨ts, hts⟩ => hrst ts hts
  exact ⟨hpay, hpaylen, hbits, hnbits, hT, hG⟩

/-- Settles O4: a command turn, and the `STEP` of a symbol, which answers in every state and leaves `NBITS` alone. -/
theorem stepRunsTheDecodedOperation : Obligations.StepRunsTheDecodedOperation := by
  unfold Obligations.StepRunsTheDecodedOperation
  constructor
  · exact fun s p op a ts i hturns hd => (step_of_cmd hturns).trans (commandTurn_of_ok hd)
  · intro s b i hrun hturn hfetch hd
    obtain rfl := Decoded.ok.inj hd
    obtain ⟨u, hu⟩ := exec_completes_of_isTxOp (isTxOp_decodeSym1 b) (s.withTurns s.env.turns.tail)
    have hnbits : u.tx.nbits = (s.withTurns s.env.turns.tail).tx.nbits := exec_decodeSym1_nbits b hu
    exact ⟨u, hu, by rw [step_of_symbol hrun hturn hfetch hu, advanceBit_of_nbits _ hnbits, State.withTurns_tx]⟩

end Sys2Proof.Proofs

/-! What an operation answers (R96, R97) and how the two paths meet at the ports (R82). A command answers once, and
unless the answer is `ST_OK` or `ST_DEVERR` nothing else is new. No operation reads an earlier response (log 2), so a
response of one path, added before or after an operation of the other, changes nothing but its own place in the list. -/

namespace Sys2Proof.Machine

/-! ### One answer of a command (R96) -/

/-- From `s`, the command of port `p` leaves `t`: it answers once, and a refusal or `ST_WAIT` leaves all else as it
was. -/
def AnswersOnce (p : Port) (s t : State) : Prop :=
  ∃ u r, t = u.respond p r ∧ u.env.responses = s.env.responses ∧ (r.st = .ok ∨ r.st = .deverr ∨ u = s)

section
variable {s t u : State} {p : Port} {r : Response} {i : Instr}

theorem AnswersOnce.of_ok (hu : u.env.responses = s.env.responses) (hr : r.st = .ok) :
    AnswersOnce p s (u.respond p r) := ⟨u, r, rfl, hu, .inl hr⟩

theorem AnswersOnce.of_deverr (hu : u.env.responses = s.env.responses) (hr : r.st = .deverr) :
    AnswersOnce p s (u.respond p r) := ⟨u, r, rfl, hu, .inr (.inl hr)⟩

theorem AnswersOnce.of_unchanged (p : Port) (r : Response) (s : State) : AnswersOnce p s (s.respond p r) :=
  ⟨s, r, rfl, rfl, .inr (.inr rfl)⟩

theorem answerRing_answersOnce {a : RingAnswer Block} (h : answerRing p a s = .next t) : AnswersOnce p s t := by
  obtain ⟨v, rx, -, rfl⟩ | ⟨st, -, rfl⟩ := answerRing_next h
  · exact .of_ok (u := s.withRx rx) rfl rfl
  · exact .of_unchanged p _ s

/-- An RX operation is a ring operation answered on its port. -/
theorem exists_ringOp (hi : isTxOp i = false) :
    ∃ p, i.port = some p ∧ ∃ op : RxState → RingAnswer Block, ∀ s, exec i s = answerRing p (op s.rx) s := by
  cases i with
  | rbInit k => exact ⟨_, rfl, ringInit k, fun _ => rfl⟩
  | rbWrite d => exact ⟨_, rfl, ringWrite d, fun _ => rfl⟩
  | rbRead => exact ⟨_, rfl, ringRead, fun _ => rfl⟩
  | rbSetDone => exact ⟨_, rfl, ringSetDone, fun _ => rfl⟩
  | rbGetDone => exact ⟨_, rfl, ringGetDone, fun _ => rfl⟩
  | rbFree => exact ⟨_, rfl, ringFree, fun _ => rfl⟩
  | _ => cases hi

theorem exec_answersOnce_of_rxOp (hi : isTxOp i = false) (hp : i.port = some p) (h : exec i s = .next t) :
    AnswersOnce p s t := by
  obtain ⟨q, hq, op, hop⟩ := exists_ringOp hi
  obtain rfl : q = p := Option.some_inj.mp (hq.symm.trans hp)
  rw [hop] at h
  exact answerRing_answersOnce h

@[simp] theorem cancelActuator_responses (s : State) : (cancelActuator s).env.responses = s.env.responses := by
  unfold cancelActuator
  split <;> rfl

/-- Every command answers once, on its own port (R96, R99). -/
theorem exec_answersOnce (hp : i.port = some p) (h : exec i s = .next t) : AnswersOnce p s t := by
  cases i with
  | gap => cases hp
  | pulse => cases hp
  | encode payload =>
    cases hp
    obtain ⟨-, rfl⟩ | ⟨-, -, rfl⟩ | ⟨-, -, rfl⟩ := execEncodeWith_next h
    · exact .of_unchanged _ _ s
    · exact .of_unchanged _ _ s
    · exact .of_ok (u := s.withTx _) rfl rfl
  | actInit =>
    cases hp
    obtain ⟨-, rfl⟩ | ⟨-, -, rfl⟩ | ⟨-, -, rfl⟩ := execActInit_next h
    · exact .of_unchanged _ _ s
    · exact .of_deverr (u := s.withTx _) rfl rfl
    · cases hr : s.env.nextInit with
      | ok hd => exact .of_ok rfl rfl
      | err k => exact .of_deverr rfl rfl
  | transmit T G =>
    cases hp
    obtain ⟨-, rfl⟩ | ⟨-, -, rfl⟩ | ⟨-, -, -, rfl⟩ := execTransmit_next h
    · exact .of_unchanged _ _ s
    · exact .of_unchanged _ _ s
    · exact .of_ok (u := s.withTx _) rfl rfl
  | cancel =>
    cases hp
    obtain rfl := Host.Outcome.next.inj h
    exact .of_ok (cancelActuator_responses s) rfl
  | actShutdown =>
    cases hp
    obtain ⟨-, rfl⟩ | ⟨-, -, rfl⟩ | ⟨-, -, rfl⟩ := execActShutdown_next h
    · exact .of_unchanged _ _ s
    · exact .of_unchanged _ _ s
    · exact .of_ok rfl rfl
  | _ => exact exec_answersOnce_of_rxOp rfl hp h

theorem AnswersOnce.responses_eq (h : AnswersOnce p s t) : ∃ r, t.env.responses = s.env.responses ++ [(p, r)] := by
  obtain ⟨u, r, rfl, hu, -⟩ := h
  exact ⟨r, by rw [State.respond_responses, hu]⟩

theorem AnswersOnce.eq_respond (h : AnswersOnce p s t) (hr : t.env.responses = s.env.responses ++ [(p, r)])
    (hok : r.st ≠ .ok) (hdeverr : r.st ≠ .deverr) : t = s.respond p r := by
  obtain ⟨u, r', rfl, hu, hst⟩ := h
  rw [State.respond_responses, hu] at hr
  obtain rfl : r' = r := by simpa using hr
  obtain hst | hst | rfl := hst
  · exact absurd hst hok
  · exact absurd hst hdeverr
  · rfl

/-- An operation adds no response if it is a symbol, and one on its own port if it is a command. -/
theorem exec_responses (h : exec i s = .next t) :
    t.env.responses = s.env.responses ∨
    ∃ p r, i.port = some p ∧ t.env.responses = s.env.responses ++ [(p, r)] := by
  cases hp : i.port with
  | some p =>
    obtain ⟨r, hr⟩ := (exec_answersOnce hp h).responses_eq
    exact .inr ⟨p, r, rfl, hr⟩
  | none =>
    refine .inl ?_
    cases i with
    | gap => obtain rfl := Host.Outcome.next.inj h; rfl
    | pulse => obtain rfl := Host.Outcome.next.inj h; rfl
    | _ => cases hp

end

/-! ### Responses answered before (log 2) -/

/-- `s` with the responses `rs` answered before those it has. -/
def State.earlier (s : State) (rs : List (Port × Response)) : State :=
  s.withEnv { s.env with responses := rs ++ s.env.responses }

/-- `s` with nothing answered. -/
def State.unanswered (s : State) : State := s.withEnv { s.env with responses := [] }

section
variable (s : State) (rs : List (Port × Response)) (rx : RxState) (p : Port) (r : Response)

@[simp] theorem State.earlier_tx : (s.earlier rs).tx = s.tx := rfl
@[simp] theorem State.earlier_rx : (s.earlier rs).rx = s.rx := rfl
@[simp] theorem State.earlier_draws : (s.earlier rs).env.draws = s.env.draws := rfl
@[simp] theorem State.earlier_actCalls : (s.earlier rs).env.actCalls = s.env.actCalls := rfl
@[simp] theorem State.earlier_responses : (s.earlier rs).env.responses = rs ++ s.env.responses := rfl

theorem State.earlier_respond : (s.earlier rs).respond p r = (s.respond p r).earlier rs := by
  simp [State.earlier, State.respond, State.withEnv]

theorem State.unanswered_earlier : s.unanswered.earlier s.env.responses = s := by
  simp [State.earlier, State.unanswered, State.withEnv]

/-- A response on top of `s` is one more response before the state that has answered nothing. -/
theorem State.withRx_respond_eq_earlier :
    (s.withRx rx).respond p r = (s.unanswered.withRx rx).earlier (s.env.responses ++ [(p, r)]) := by
  simp [State.earlier, State.unanswered, State.respond, State.withEnv, State.withRx]

theorem answer_earlier : answer p r (s.earlier rs) = onNext (·.earlier rs) (answer p r s) :=
  congrArg Host.Outcome.next (State.earlier_respond s rs p r)

theorem refuse_earlier (st : Status) : refuse p st (s.earlier rs) = onNext (·.earlier rs) (refuse p st s) :=
  answer_earlier s rs p (.plain st)

theorem cancelActuator_earlier : cancelActuator (s.earlier rs) = (cancelActuator s).earlier rs := by
  unfold cancelActuator
  rw [State.earlier_tx]
  split_ifs <;> rfl

/-- What a TX operation does is independent of the responses answered before it. -/
theorem exec_earlier {i : Instr} (hi : isTxOp i = true) :
    exec i (s.earlier rs) = onNext (·.earlier rs) (exec i s) := by
  cases i with
  | gap => rfl
  | pulse => rfl
  | encode payload =>
    change execEncodeWith Config.params payload _ = onNext _ (execEncodeWith Config.params payload s)
    unfold execEncodeWith
    rw [State.earlier_tx]
    split_ifs
    · exact refuse_earlier s rs .txh .busy
    · exact refuse_earlier s rs .txh .param
    · exact answer_earlier (s.withTx _) rs .txh _
  | actInit =>
    change execActInit _ = onNext _ (execActInit s)
    unfold execActInit
    rw [State.earlier_tx]
    split_ifs
    · exact refuse_earlier s rs .txh .busy
    · exact answer_earlier (s.withTx _) rs .txh _
    · exact answer_earlier ⟨_, s.rx, s.env.callInit⟩ rs .txh _
  | transmit T G =>
    change execTransmit T G _ = onNext _ (execTransmit T G s)
    unfold execTransmit
    rw [State.earlier_tx]
    split_ifs
    · exact refuse_earlier s rs .txh .busy
    · exact refuse_earlier s rs .txh .state
    · exact refuse_earlier s rs .txh .state
    · exact answer_earlier (s.withTx _) rs .txh _
  | cancel =>
    change execCancel _ = onNext _ (execCancel s)
    rw [execCancel, cancelActuator_earlier]
    exact answer_earlier ((cancelActuator s).withTx _) rs .can _
  | actShutdown =>
    change execActShutdown _ = onNext _ (execActShutdown s)
    unfold execActShutdown
    rw [State.earlier_tx]
    split_ifs
    · exact refuse_earlier s rs .txh .busy
    · exact refuse_earlier s rs .txh .state
    · exact answer_earlier s.shutdownActuator rs .txh _
  | _ => cases hi

end

/-! ### The two paths at the ports (R18, R82) -/

/-- The port belongs to the TX path (R50, R270). -/
def isTxPort : Port → Bool
  | .txh => true
  | .can => true
  | .rxh => false
  | .prd => false
  | .cns => false

theorem isTxPort_of_port {i : Instr} {p : Port} (h : i.port = some p) : isTxPort p = isTxOp i := by
  cases i <;> cases h <;> rfl

section
variable {i j : Instr} {s u t u' t' : State}

theorem onNext_eq_next {f : State → State} {o : Host.Outcome State Fault Refusal} (h : onNext f o = .next t) :
    ∃ v, o = .next v ∧ t = f v := by
  cases o with
  | next v => exact ⟨v, rfl, (Host.Outcome.next.inj h).symm⟩
  | fault e => cases h
  | refused e => cases h

/-- The RX elements alone decide the ring an RX operation leaves and what it answers, in every state that has them. -/
theorem exec_rxOp_next (hj : isTxOp j = false) (h : exec j s = .next t) :
    ∃ p ring r, j.port = some p ∧ ∀ u, u.rx = s.rx → exec j u = .next ((u.withRx ring).respond p r) := by
  obtain ⟨p, hp, op, hop⟩ := exists_ringOp hj
  rw [hop] at h
  obtain ⟨v, ring, ha, -⟩ | ⟨st, ha, -⟩ := answerRing_next h
  · exact ⟨p, ring, _, hp, fun u hu => by rw [hop, hu, ha, answerRing_ok]⟩
  · exact ⟨p, s.rx, _, hp, fun u hu => by rw [hop, hu, ha, answerRing_refuse, ← hu, State.withRx_self]⟩

/-- With `v` the TX operation's next state from nothing answered, both orders lead to `v` with the ring of the RX
operation; its response stands after those of `v` in the one order and before them in the other. -/
theorem exec_comm (hi : isTxOp i = true) (hj : isTxOp j = false) (hu : exec i s = .next u) (ht : exec j u = .next t)
    (hu' : exec j s = .next u') (ht' : exec i u' = .next t') :
    ∃ v p ring r, exec i s.unanswered = .next v ∧ j.port = some p ∧
      t = ((v.earlier s.env.responses).withRx ring).respond p r ∧
      t' = (v.withRx ring).earlier (s.env.responses ++ [(p, r)]) := by
  obtain ⟨p, ring, r, hp, hring⟩ := exec_rxOp_next hj hu'
  obtain rfl : u' = (s.withRx ring).respond p r := Host.Outcome.next.inj (hu'.symm.trans (hring s rfl))
  obtain rfl : t = (u.withRx ring).respond p r :=
    Host.Outcome.next.inj (ht.symm.trans (hring u (exec_rx_of_isTxOp hi hu)))
  rw [← State.unanswered_earlier s, exec_earlier _ _ hi] at hu
  obtain ⟨v, hv, rfl⟩ := onNext_eq_next hu
  rw [State.withRx_respond_eq_earlier, exec_earlier _ _ hi, exec_withRx _ _ hi, hv] at ht'
  exact ⟨v, p, ring, r, hv, hp, rfl, (Host.Outcome.next.inj ht').symm⟩

/-- Responses on two ports may change places: each port is answered the same. -/
theorem filter_port_comm {p q : Port} (hpq : p ≠ q) (a b : Response) (rs : List (Port × Response)) (o : Port) :
    ((rs ++ [(p, a)]) ++ [(q, b)]).filter (·.1 = o) = ((rs ++ [(q, b)]) ++ [(p, a)]).filter (·.1 = o) := by
  by_cases hp : p = o
  · simp [hp, show q ≠ o from hp ▸ hpq.symm]
  · simp [hp, List.filter_cons]

end

end Sys2Proof.Machine

namespace Sys2Proof.Proofs

open Sys2Proof.Machine

/-- Settles O7: the one answer of a command, where the status is neither `ST_OK` nor `ST_DEVERR`. -/
theorem refusalsChangeNothing : Obligations.RefusalsChangeNothing := by
  unfold Obligations.RefusalsChangeNothing
  intro i s t p r h hp hr hst
  have hok : r.st ≠ .ok := fun heq => by simp [heq] at hst
  have hdeverr : r.st ≠ .deverr := fun heq => by simp [heq] at hst
  exact (exec_answersOnce hp h).eq_respond hr hok hdeverr

/-- Settles O9: both orders lead to the same state but for the places of two responses, and those are on two ports. -/
theorem pathsCommute : Obligations.PathsCommute := by
  unfold Obligations.PathsCommute
  intro i j s u t u' t' hi hj hu ht hu' ht'
  obtain ⟨v, p, ring, r, hv, hp, rfl, rfl⟩ := exec_comm hi hj hu ht hu' ht'
  refine ⟨rfl, rfl, rfl, rfl, fun o => ?_⟩
  obtain hnone | ⟨q, a, hq, hone⟩ := exec_responses hv
  · simp [hnone, State.unanswered]
  · have hports : q ≠ p := fun heq => by
      have hside := isTxPort_of_port hq
      rw [heq, isTxPort_of_port hp, hi, hj] at hside
      cases hside
    simpa [hone, State.unanswered] using filter_port_comm hports a r s.env.responses o

end Sys2Proof.Proofs

/-! The ring is blind to Blocks (R10, R62): renaming commutes with a look at a slot and with every change of the ring, so
a ring operation takes the same branch on the renamed ring and leaves the renamed result; and the machine only answers
it. -/

namespace Sys2Proof.Machine

/-! ### Renaming and the parts of the ring -/

section
variable {α β : Type} (f : α → β) (rx : RxStateOf α) (d : α)

/-- The cell with its Block renamed. -/
def Slot.rename (c : Slot α) : Slot β := ⟨c.filled, c.data.map f⟩

@[simp] theorem Slot.rename_filled (c : Slot α) : (c.rename f).filled = c.filled := rfl
@[simp] theorem Slot.rename_data (c : Slot α) : (c.rename f).data = c.data.map f := rfl

@[simp] theorem rename_rbState : (rx.rename f).rbState = rx.rbState := rfl
@[simp] theorem rename_rbWr : (rx.rename f).rbWr = rx.rbWr := rfl
@[simp] theorem rename_rbRd : (rx.rename f).rbRd = rx.rbRd := rfl
@[simp] theorem rename_rbDone : (rx.rename f).rbDone = rx.rbDone := rfl

@[simp] theorem slotRead_rename (i : Nat) : slotRead (rx.rename f) i = (slotRead rx i).map (Slot.rename f) :=
  List.getElem?_map

@[simp] theorem buildRing_rename (k : Nat) : (buildRing k : RxStateOf α).rename f = buildRing k := by
  simp [buildRing, RxStateOf.rename, Slot.empty]

@[simp] theorem reset_rename : (RxStateOf.reset : RxStateOf α).rename f = .reset := rfl

@[simp] theorem fillSlot_rename : fillSlot (f d) (rx.rename f) = (fillSlot d rx).rename f := by
  simp [fillSlot, slotWrite, nextSlot, RxStateOf.rename, List.map_set, Slot.full]

@[simp] theorem drainSlot_rename : drainSlot (f d) (rx.rename f) = (drainSlot d rx).rename f := by
  simp [drainSlot, slotWrite, nextSlot, RxStateOf.rename, List.map_set, Slot.empty]

/-! ### Renaming and the ring operations (R181 to R189) -/

@[simp] theorem RingValue.rename_none : (RingValue.none : RingValue α).rename f = .none := rfl
@[simp] theorem RingValue.rename_block : (RingValue.block d).rename f = .block (f d) := rfl
@[simp] theorem RingValue.rename_flag (b : Bool) : (RingValue.flag b : RingValue α).rename f = .flag b := rfl

@[simp] theorem RingAnswer.rename_ok (v : RingValue α) :
    (RingAnswer.ok v rx).rename f = .ok (v.rename f) (rx.rename f) := rfl
@[simp] theorem RingAnswer.rename_refuse (st : Status) :
    (RingAnswer.refuse st : RingAnswer α).rename f = .refuse st := rfl
@[simp] theorem RingAnswer.rename_stop (e : Fault) : (RingAnswer.stop e : RingAnswer α).rename f = .stop e := rfl

theorem ringInit_rename (k : Nat) : ringInit k (rx.rename f) = (ringInit k rx).rename f := by
  obtain ⟨hb, -⟩ | ⟨hb, hk, -⟩ | ⟨hb, hk, -⟩ := ringInit_cases k rx
  · simp [ringInit, hb]
  · simp [ringInit, hb, nodeCountTooSmall, hk]
  · simp [ringInit, hb, nodeCountTooSmall, Nat.not_lt.mpr hk]

theorem ringWrite_rename : ringWrite (f d) (rx.rename f) = (ringWrite d rx).rename f := by
  obtain ⟨hb | hd, -⟩ | ⟨hb, hd, ⟨hc, -⟩ | ⟨c, hc, ⟨hf, -⟩ | ⟨hf, -⟩⟩⟩ := ringWrite_cases d rx
  · simp [ringWrite, hb]
  · simp [ringWrite, hd]
  · simp [ringWrite, hb, hd, hc]
  · simp [ringWrite, hb, hd, hc, hf]
  · simp [ringWrite, hb, hd, hc, hf]

theorem ringRead_rename : ringRead (rx.rename f) = (ringRead rx).rename f := by
  obtain ⟨hb, -⟩ | ⟨hb, ⟨hc, -⟩ | ⟨c, hc, ⟨hf, -⟩ | ⟨hf, hn, -⟩ | ⟨hf, d, hd, -⟩⟩⟩ := ringRead_cases rx
  · simp [ringRead, hb]
  · simp [ringRead, hb, hc]
  · simp [ringRead, hb, hc, hf]
  · simp [ringRead, hb, hc, hf, hn]
  · simp [ringRead, hb, hc, hf, hd]

theorem ringSetDone_rename : ringSetDone (rx.rename f) = (ringSetDone rx).rename f := by
  cases hb : rx.rbState with
  | unbuilt => simp [ringSetDone, hb]
  | built => simp [ringSetDone, hb, RxStateOf.rename]

theorem ringGetDone_rename : ringGetDone (rx.rename f) = (ringGetDone rx).rename f := by
  cases hb : rx.rbState with
  | unbuilt => simp [ringGetDone, hb]
  | built => simp [ringGetDone, hb]

theorem ringFree_rename : ringFree (rx.rename f) = (ringFree rx).rename f := by
  cases hb : rx.rbState with
  | unbuilt => simp [ringFree, hb]
  | built => simp [ringFree, hb]

end

/-! ### Renaming and the operations of the machine -/

section
variable (f : Block → Block) {s t : State} {i : Instr} {p : Port} {r : Response}

/-- An RX operation, and the operation renamed on the renamed ring, answer a ring operation's result and that result
renamed. -/
theorem exec_rename {s : State} (hi : isTxOp i = false) :
    ∃ p a, i.port = some p ∧ exec i s = answerRing p a s ∧
      exec (renameInstr f i) (s.withRx (s.rx.rename f)) =
        answerRing p (a.rename f) (s.withRx (s.rx.rename f)) := by
  cases i with
  | rbInit k => exact ⟨_, _, rfl, rfl, congrArg (answerRing .rxh · _) (ringInit_rename f s.rx k)⟩
  | rbWrite d => exact ⟨_, _, rfl, rfl, congrArg (answerRing .prd · _) (ringWrite_rename f s.rx d)⟩
  | rbRead => exact ⟨_, _, rfl, rfl, congrArg (answerRing .cns · _) (ringRead_rename f s.rx)⟩
  | rbSetDone => exact ⟨_, _, rfl, rfl, congrArg (answerRing .prd · _) (ringSetDone_rename f s.rx)⟩
  | rbGetDone => exact ⟨_, _, rfl, rfl, congrArg (answerRing .cns · _) (ringGetDone_rename f s.rx)⟩
  | rbFree => exact ⟨_, _, rfl, rfl, congrArg (answerRing .rxh · _) (ringFree_rename f s.rx)⟩
  | _ => cases hi

theorem renameResponse_ok (v : RingValue Block) :
    renameResponse f ⟨.ok, .none, v.response⟩ = ⟨.ok, .none, (v.rename f).response⟩ := by
  cases v <;> rfl

/-- The machine answers a renamed result with the renamed ring and the renamed response. -/
theorem answerRing_rename {a : RingAnswer Block} (h : answerRing p a s = .next t)
    (hr : t.env.responses = s.env.responses ++ [(p, r)]) :
    answerRing p (a.rename f) (s.withRx (s.rx.rename f)) =
      .next ((s.withRx (t.rx.rename f)).respond p (renameResponse f r)) := by
  obtain ⟨v, rx, rfl, rfl⟩ | ⟨st, rfl, rfl⟩ := answerRing_next h
  · obtain rfl : ⟨.ok, .none, v.response⟩ = r := by simpa using hr
    rw [renameResponse_ok]
    rfl
  · obtain rfl : Response.plain st = r := by simpa using hr
    rfl

/-- A stop is the ring operation's, and renaming leaves it. -/
theorem answerRing_fault {a : RingAnswer Block} {e : Fault} (h : answerRing p a s = .fault e) : a = .stop e := by
  cases a with
  | ok v rx => cases h
  | refuse st => cases h
  | stop e' => cases h; rfl

end

end Sys2Proof.Machine

namespace Sys2Proof.Proofs

open Sys2Proof.Machine

/-- Settles O49: ring operation by ring operation, and then for what the machine answers. -/
theorem ringIsBlindToBlocks : Obligations.RingIsBlindToBlocks := by
  unfold Obligations.RingIsBlindToBlocks
  constructor
  · exact fun α β f rx =>
      ⟨ringInit_rename f rx, ringWrite_rename f rx, ringRead_rename f rx, ringSetDone_rename f rx,
        ringGetDone_rename f rx, ringFree_rename f rx⟩
  · intro f i s hi
    obtain ⟨q, a, hq, hexec, hrenamed⟩ := exec_rename f (s := s) hi
    rw [hexec, hrenamed]
    constructor
    · intro t p r h hp hr
      obtain rfl : q = p := Option.some_inj.mp (hq.symm.trans hp)
      exact answerRing_rename f h hr
    · intro e h
      rw [answerRing_fault h]
      rfl

end Sys2Proof.Proofs

/-! How words and operations correspond (R90 to R93, R99, R100), and what a response holds (R96). -/

namespace Sys2Proof.Machine

/-! ### Decode and encode (R90, R91, R99, R100) -/

section
variable {p q : Port} {op : BitVec 4} {a : Operands} {i : Instr} {b : Bit}

theorem decode_encode (i : Instr) : decode (encode i) = .ok i := by
  cases i <;> rfl

theorem encode_injective {i j : Instr} (h : encode i = encode j) : i = j :=
  Decoded.ok.inj <| calc Decoded.ok i = decode (encode i) := (decode_encode i).symm
    _ = decode (encode j) := congrArg decode h
    _ = .ok j := decode_encode j

theorem encode_decodeSym1 (b : Bit) : encode (decodeSym1 b) = .sym1 b := by
  obtain rfl | rfl := bit_zero_or_one b <;> rfl

theorem decode_cmd4_of_reserved (hop : decodeCode op a = none) : decode (.cmd4 p op a) = .rejected .reservedCode := by
  rw [decode, decodeCmd4, hop]

theorem decode_cmd4_of_code (hop : decodeCode op a = some (q, i)) :
    decode (.cmd4 p op a) = if p = q then .ok i else .rejected .wrongPort := by
  rw [decode, decodeCmd4, hop]

/-- A command word decodes to `i` exactly on the port that owns `i`, under its code (R99). -/
theorem decode_cmd4_eq_ok_iff : decode (.cmd4 p op a) = .ok i ↔ decodeCode op a = some (p, i) := by
  cases hop : decodeCode op a with
  | none => simp [decode_cmd4_of_reserved hop]
  | some x =>
    obtain ⟨owner, j⟩ := x
    rw [decode_cmd4_of_code hop]
    split
    · next howner => simp [howner]
    · next howner => simp [Ne.symm howner]

theorem decodeCode_of_reserved (hop : op ∈ [0b0000#4, 0b0110#4, 0b0111#4, 0b1110#4, 0b1111#4]) (a : Operands) :
    decodeCode op a = none := by
  simp only [List.mem_cons, List.not_mem_nil, or_false] at hop
  obtain rfl | rfl | rfl | rfl | rfl := hop <;> rfl

/-- R100: a command that does not decode is one refusal, whatever the reason. -/
theorem step_of_rejected {s : State} {ts : List Turn} {r : Reject} (hturns : s.env.turns = .cmd p op a :: ts)
    (h : decode (.cmd4 p op a) = .rejected r) :
    step s = .next ((s.withTurns ts).respond p ⟨.illegal, .none, .none⟩) :=
  (step_of_cmd hturns).trans (commandTurn_of_rejected h)

end

/-! ### What a response holds (R96) -/

/-- `r` has a form R96 allows to the command `i` issued in `s`. -/
structure ResponseForm (i : Instr) (s : State) (r : Response) : Prop where
  kind_of_deverr : r.ek ≠ .none → r.st = .deverr
  deverr_of_actInit : r.st = .deverr → i = .actInit
  bits_of_encode : ∀ bs, r.v = .bits bs → ∃ payload, i = .encode payload ∧ bs = encodePayload Config.preamble payload
  block_of_rbRead : ∀ d, r.v = .block d → i = .rbRead ∧ r.st = .ok
  rbRead_block : i = .rbRead → r.st = .ok → ∃ d, r.v = .block d
  flag_of_rbGetDone : ∀ f, r.v = .flag f → i = .rbGetDone ∧ f = s.rx.rbDone

section
variable {i : Instr} {s t : State} {p : Port} {st : Status}

theorem ResponseForm.of_plain (hst : st ≠ .deverr) (hread : i = .rbRead → st ≠ .ok) :
    ResponseForm i s (.plain st) :=
  ⟨fun h => absurd rfl h, fun h => absurd h hst, nofun, nofun, fun hi h => absurd h (hread hi), nofun⟩

theorem ResponseForm.of_encode (payload : List Byte) (s : State) :
    ResponseForm (.encode payload) s ⟨.ok, .none, .bits (encodePayload Config.preamble payload)⟩ :=
  ⟨fun h => absurd rfl h, nofun, fun _ h => ⟨payload, rfl, (RespValue.bits.inj h).symm⟩, nofun, nofun, nofun⟩

theorem ResponseForm.of_deverr (k : ErrKind) (s : State) : ResponseForm .actInit s ⟨.deverr, k, .none⟩ :=
  ⟨fun _ => rfl, fun _ => rfl, nofun, nofun, nofun, nofun⟩

theorem ResponseForm.of_initResponse (r : InitAnswer) (s : State) : ResponseForm .actInit s (initResponse r) := by
  cases r with
  | ok hd => exact .of_plain (by decide) nofun
  | err k => exact .of_deverr k.kind s

theorem ResponseForm.of_block (d : Block) (s : State) : ResponseForm .rbRead s ⟨.ok, .none, .block d⟩ :=
  ⟨fun h => absurd rfl h, nofun, nofun, fun _ _ => ⟨rfl, rfl⟩, fun _ _ => ⟨d, rfl⟩, nofun⟩

theorem ResponseForm.of_flag (s : State) : ResponseForm .rbGetDone s ⟨.ok, .none, .flag s.rx.rbDone⟩ :=
  ⟨fun h => absurd rfl h, nofun, nofun, nofun, nofun, fun _ h => ⟨rfl, (RespValue.flag.inj h).symm⟩⟩

/-- From `s`, the command `i` of port `p` leaves `t` with one response more, of a form R96 allows. -/
def AnswersInForm (i : Instr) (p : Port) (s t : State) : Prop :=
  ∃ r, t.env.responses = s.env.responses ++ [(p, r)] ∧ ResponseForm i s r

/-- A state `u` in which nothing has been answered yet, and then the response. -/
theorem ResponseForm.answersInForm {r : Response} {u : State} (h : ResponseForm i s r)
    (hu : u.env.responses = s.env.responses) : AnswersInForm i p s (u.respond p r) :=
  ⟨r, by rw [State.respond_responses, hu], h⟩

/-- A status alone, other than `ST_DEVERR`, is a form of every command; but `RB_READ` has no plain `ST_OK`. -/
theorem AnswersInForm.of_plain {u : State} (hst : st ≠ .deverr) (hread : i = .rbRead → st ≠ .ok)
    (hu : u.env.responses = s.env.responses) : AnswersInForm i p s (u.respond p (.plain st)) :=
  (ResponseForm.of_plain hst hread).answersInForm hu

/-- R96, operation by operation. -/
theorem exec_answersInForm (hp : i.port = some p) (h : exec i s = .next t) : AnswersInForm i p s t := by
  cases i with
  | gap => cases hp
  | pulse => cases hp
  | encode payload =>
    cases hp
    obtain ⟨-, rfl⟩ | ⟨-, -, rfl⟩ | ⟨-, -, rfl⟩ := execEncodeWith_next h
    · exact .of_plain (by decide) nofun rfl
    · exact .of_plain (by decide) nofun rfl
    · exact (ResponseForm.of_encode payload s).answersInForm rfl
  | actInit =>
    cases hp
    obtain ⟨-, rfl⟩ | ⟨-, -, rfl⟩ | ⟨-, -, rfl⟩ := execActInit_next h
    · exact .of_plain (by decide) nofun rfl
    · exact (ResponseForm.of_deverr _ s).answersInForm rfl
    · exact (ResponseForm.of_initResponse _ s).answersInForm rfl
  | transmit T G =>
    cases hp
    obtain ⟨-, rfl⟩ | ⟨-, -, rfl⟩ | ⟨-, -, -, rfl⟩ := execTransmit_next h
    all_goals exact .of_plain (by decide) nofun rfl
  | cancel =>
    cases hp
    obtain rfl := Host.Outcome.next.inj h
    exact .of_plain (by decide) nofun (cancelActuator_responses s)
  | actShutdown =>
    cases hp
    obtain ⟨-, rfl⟩ | ⟨-, -, rfl⟩ | ⟨-, -, rfl⟩ := execActShutdown_next h
    all_goals exact .of_plain (by decide) nofun rfl
  | rbInit k =>
    cases hp
    obtain ⟨-, rfl⟩ | ⟨-, -, rfl⟩ | ⟨-, -, rfl⟩ := execRbInit_next h
    all_goals exact .of_plain (by decide) nofun rfl
  | rbWrite d =>
    cases hp
    obtain ⟨-, rfl⟩ | ⟨-, -, c, -, ⟨-, rfl⟩ | ⟨-, rfl⟩⟩ := execRbWrite_next h
    all_goals exact .of_plain (by decide) nofun rfl
  | rbRead =>
    cases hp
    obtain ⟨-, rfl⟩ | ⟨-, c, -, ⟨-, rfl⟩ | ⟨-, d, -, rfl⟩⟩ := execRbRead_next h
    · exact .of_plain (by decide) (fun _ => by decide) rfl
    · exact .of_plain (by decide) (fun _ => by decide) rfl
    · exact (ResponseForm.of_block d s).answersInForm rfl
  | rbSetDone =>
    cases hp
    obtain ⟨-, rfl⟩ | ⟨-, rfl⟩ := execRbSetDone_next h
    all_goals exact .of_plain (by decide) nofun rfl
  | rbGetDone =>
    cases hp
    obtain ⟨-, rfl⟩ | ⟨-, rfl⟩ := execRbGetDone_next h
    · exact .of_plain (by decide) nofun rfl
    · exact (ResponseForm.of_flag s).answersInForm rfl
  | rbFree =>
    cases hp
    obtain ⟨-, rfl⟩ | ⟨-, rfl⟩ := execRbFree_next h
    all_goals exact .of_plain (by decide) nofun rfl

/-- A symbol is internal and answers nothing (R91, R96). -/
theorem exec_responses_of_symbol (hp : i.port = none) (h : exec i s = .next t) :
    t.env.responses = s.env.responses := by
  obtain hsame | ⟨q, r, hq, -⟩ := exec_responses h
  · exact hsame
  · rw [hp] at hq
    cases hq

end

end Sys2Proof.Machine

namespace Sys2Proof.Proofs

open Sys2Proof.Machine

/-- Settles O1: whatever the lanes hold, the code and the port select the row. -/
theorem tableWordsDecode : Obligations.TableWordsDecode := by
  unfold Obligations.TableWordsDecode
  exact fun a => ⟨rfl, rfl, rfl, rfl, rfl, rfl, rfl, rfl, rfl, rfl, rfl, rfl, rfl⟩

/-- Settles O2: decoding is a left inverse of encoding, and a word that decodes has the port and the code of its row. -/
theorem decodeEncodeRoundTrip : Obligations.DecodeEncodeRoundTrip := by
  unfold Obligations.DecodeEncodeRoundTrip
  refine ⟨decode_encode, fun b i h => ?_, fun p op a i h => ?_, fun i j => encode_injective⟩
  · obtain rfl := Decoded.ok.inj h
    exact encode_decodeSym1 b
  · obtain ⟨a', ha'⟩ := encode_of_decode h
    exact ⟨a', ha', ha' ▸ decode_encode i⟩

/-- Settles O3: neither word decodes, and a command that does not decode is refused. -/
theorem illegalCommandsAreRefused : Obligations.IllegalCommandsAreRefused := by
  unfold Obligations.IllegalCommandsAreRefused
  constructor
  · exact fun s p op a ts hturns hop =>
      step_of_rejected hturns (decode_cmd4_of_reserved (decodeCode_of_reserved hop a))
  · intro s p q op a ts i hturns hd hpq
    have hcode := decode_cmd4_eq_ok_iff.mp hd
    exact step_of_rejected hturns ((decode_cmd4_of_code hcode).trans (if_neg hpq))

/-- Settles O6: a symbol answers nothing, a command once and in a form of R96. -/
theorem everyCommandAnswersOnce : Obligations.EveryCommandAnswersOnce := by
  unfold Obligations.EveryCommandAnswersOnce
  refine ⟨rfl, rfl, fun i s t h => ⟨fun hp => exec_responses_of_symbol hp h, fun p hp => ?_⟩⟩
  obtain ⟨r, hr, hform⟩ := exec_answersInForm hp h
  exact ⟨r, hr, hform.kind_of_deverr, hform.deverr_of_actInit, hform.bits_of_encode, hform.block_of_rbRead,
    hform.rbRead_block, hform.flag_of_rbGetDone⟩

end Sys2Proof.Proofs

/-! `SEND` ends by itself (R104, R144): each `STEP` of a run schedules one bit, so a run of `NBITS` bits is over after as
many, with the time of all its bits in `TX_TIME`. -/

namespace Sys2Proof.Machine

/-! ### The two commands accepted (R121, R143) -/

section
variable {s : State}

/-- R121 with the bound of this hardware, which is none (R10). -/
theorem exec_encode_of_idle (payload : List Byte) (hidle : s.tx.txState = .idle) :
    exec (.encode payload) s = .next ((s.withTx (storePayload Config.params payload s.tx)).respond .txh
      ⟨.ok, .none, .bits (encodePayload Config.preamble payload)⟩) := by
  have hrun : s.tx.txState ≠ .run := by rw [hidle]; decide
  exact (if_neg hrun).trans rfl

theorem exec_transmit_of_ready (T G : Nat) (hidle : s.tx.txState = .idle) (hvalid : s.tx.bitsValid = true)
    (hopen : s.tx.actState = .opened) :
    exec (.transmit T G) s = .next ((s.withTx (startRun T G s.tx)).respond .txh (.plain .ok)) := by
  change execTransmit T G s = _
  simp [execTransmit, hidle, hvalid, hopen]

/-- The two commands of `SEND` are accepted, one after the other, and leave the run to be awaited. -/
theorem send_eq_awaitIdle (n : Nat) (payload : List Byte) (T G : Nat) (hidle : s.tx.txState = .idle)
    (hopen : s.tx.actState = .opened) :
    ∃ u, send n payload T G s = awaitIdle n u ∧ u.tx = startRun T G (storePayload Config.params payload s.tx) ∧
      u.env.turns = s.env.turns := by
  have hencode := issue_of_exec rfl (exec_encode_of_idle payload hidle) rfl
  rw [send, hencode, Option.bind_some]
  generalize he : State.respond _ _ _ = e
  have htx : e.tx = storePayload Config.params payload s.tx := by rw [← he]; rfl
  have hready := exec_transmit_of_ready (s := e) T G (by rw [htx]; exact hidle) (by rw [htx]; rfl)
    (by rw [htx]; exact hopen)
  rw [issue_of_exec rfl hready rfl, Option.bind_some]
  exact ⟨_, rfl, by rw [← htx]; rfl, by rw [← he]; rfl⟩

end

/-! ### One `STEP` of a run (R144, R150) -/

theorem SameTransmission.trans {tx₀ tx₁ tx₂ : TxState} (h : SameTransmission tx₀ tx₁) (h' : SameTransmission tx₁ tx₂) :
    SameTransmission tx₀ tx₂ :=
  ⟨h'.pay.trans h.pay, h'.paylen.trans h.paylen, h'.bits.trans h.bits, h'.nbits.trans h.nbits, h'.txT.trans h.txT,
    h'.txG.trans h.txG⟩

theorem endedComplete_iff {tx : TxState} : endedComplete tx = true ↔ tx.txState = .idle ∧ tx.txStatus = .done := by
  simp [endedComplete]

@[simp] theorem advanceBit_txTime (i : Nat) (tx : TxState) : (advanceBit i tx).txTime = tx.txTime := by
  unfold advanceBit
  split <;> rfl

/-- `tx` has the first `n` bits scheduled: the program counter stands behind them and `TX_TIME` is their time (R52(e),
R144). -/
structure ScheduledUpTo (n : Nat) (tx : TxState) : Prop where
  bitIdx : tx.bitIdx = n
  txTime : tx.txTime = ones (tx.bits.take n) * tx.txT + zeros (tx.bits.take n) * tx.txG

/-- From `s`, the `STEP` of the bit at `BIT_IDX` leaves `t`: the same transmission with one bit more scheduled. -/
structure OneBitScheduled (s t : State) : Prop where
  same : SameTransmission s.tx t.tx
  upTo : ScheduledUpTo (s.tx.bitIdx + 1) t.tx
  turns : t.env.turns = s.env.turns
  ends : s.tx.bitIdx + 1 = s.tx.nbits → endedComplete t.tx = true
  runs : s.tx.bitIdx + 1 ≠ s.tx.nbits → t.tx.txState = .run

section
variable {P : Params} {s t u : State} {n : Nat}

/-- The advance after a symbol that has left `u`, still running, with the time of one bit more. -/
theorem oneBitScheduled_of_symbol (same : SameTransmission s.tx u.tx) (hrun : u.tx.txState = .run)
    (htime : u.tx.txTime = ones (s.tx.bits.take (s.tx.bitIdx + 1)) * s.tx.txT +
      zeros (s.tx.bits.take (s.tx.bitIdx + 1)) * s.tx.txG)
    (turns : u.env.turns = s.env.turns) :
    OneBitScheduled s (u.withTx (advanceBit s.tx.bitIdx u.tx)) where
  same := same.after_advanceBit _
  upTo := by
    have hsame := same.after_advanceBit s.tx.bitIdx
    refine ⟨advanceBit_bitIdx _ _, ?_⟩
    rw [State.withTx_tx, hsame.bits, hsame.txT, hsame.txG, advanceBit_txTime, htime]
  turns := turns
  ends hlast := by
    rw [State.withTx_tx, advanceBit_last (same.nbits ▸ hlast)]
    rfl
  runs hinner := by
    rw [State.withTx_tx, advanceBit_inner (same.nbits ▸ hinner)]
    exact hrun

/-- During a run the scheduler's turn answers, and schedules one bit. -/
theorem schedulerTurn_oneBitScheduled (h : TxInv P s.tx) (hrun : s.tx.txState = .run) :
    ∃ t, schedulerTurn s = .next t ∧ OneBitScheduled s t := by
  obtain ⟨b, hfetch⟩ := h.exists_fetchBit hrun
  have htake := take_succ_of_fetch hfetch
  have htime := h.run_time hrun
  have hturn {u : State} (hu : exec (decodeSym1 b) s = .next u) :
      schedulerTurn s = .next (u.withTx (advanceBit s.tx.bitIdx u.tx)) :=
    (if_pos hrun).trans (schedulerStep_of_symbol hfetch hu)
  obtain rfl | rfl := bit_zero_or_one b
  · refine ⟨_, hturn rfl, oneBitScheduled_of_symbol (applyGap_sameTransmission _) hrun ?_ rfl⟩
    rw [htake, ones_append_zero, zeros_append_zero]
    change s.tx.txTime + s.tx.txG = _
    rw [htime]
    ring
  · refine ⟨_, hturn rfl, oneBitScheduled_of_symbol (applyPulse_sameTransmission _ _) ?_ ?_ rfl⟩
    · exact (applyPulse_txState _ _).trans hrun
    · rw [htake, ones_append_one, zeros_append_one, applyPulse_txTime, htime]
      ring

/-- A scheduler's turn put first is the next transition (R74). -/
theorem step_sched_first (s : State) : step (s.withTurns (.sched :: s.env.turns)) = schedulerTurn s :=
  step_of_nextIsSched (.inr ⟨_, rfl⟩)

/-! ### Waiting for the end of a run (R50, R104) -/

theorem awaitIdle_of_idle (n : Nat) (hidle : s.tx.txState = .idle) : awaitIdle n s = some s := by
  cases n <;> exact if_pos hidle

theorem awaitIdle_succ_of_run (hrun : s.tx.txState = .run) (h : schedulerTurn s = .next t) :
    awaitIdle (n + 1) s = awaitIdle n t := by
  have hidle : ¬(statusOutputs s).txState = .idle := by
    change s.tx.txState ≠ .idle
    rw [hrun]
    decide
  rw [awaitIdle, if_neg hidle, step_sched_first, h]

/-- With `n + 1` bits to go, `n + 1` scheduler's turns end the run with every bit scheduled. -/
theorem awaitIdle_of_run (h : TxInv P s.tx) (hrun : s.tx.txState = .run) (hn : s.tx.bitIdx + (n + 1) = s.tx.nbits) :
    ∃ t, awaitIdle (n + 1) s = some t ∧ endedComplete t.tx = true ∧ SameTransmission s.tx t.tx ∧
      ScheduledUpTo s.tx.nbits t.tx ∧ t.env.turns = s.env.turns := by
  induction n generalizing s with
  | zero =>
    obtain ⟨t, hturn, hbit⟩ := schedulerTurn_oneBitScheduled h hrun
    have hended := hbit.ends hn
    obtain ⟨hidle, -⟩ := endedComplete_iff.mp hended
    exact ⟨t, (awaitIdle_succ_of_run hrun hturn).trans (awaitIdle_of_idle 0 hidle), hended, hbit.same, hn ▸ hbit.upTo,
      hbit.turns⟩
  | succ n ih =>
    obtain ⟨u, hturn, hbit⟩ := schedulerTurn_oneBitScheduled h hrun
    have hinv : TxInv P u.tx := nextTransition_txInv (s := s.withTurns (.sched :: s.env.turns)) h hturn
    have hleft : u.tx.bitIdx + (n + 1) = u.tx.nbits := by
      rw [hbit.upTo.bitIdx, hbit.same.nbits]
      omega
    obtain ⟨t, ht, hended, hsame, hupTo, hturns⟩ := ih hinv (hbit.runs (by omega)) hleft
    exact ⟨t, (awaitIdle_succ_of_run hrun hturn).trans ht, hended, hbit.same.trans hsame, hbit.same.nbits ▸ hupTo,
      hturns.trans hbit.turns⟩

/-- The run an accepted `TRANSMIT` starts, awaited for as many turns as it has bits (R143, R144). -/
theorem awaitIdle_of_startRun {tx : TxState} {T G : Nat} (h : TxInv P tx) (hidle : tx.txState = .idle)
    (hvalid : tx.bitsValid = true) (hopen : tx.actState = .opened) (hn : tx.nbits = n + 1)
    (hs : s.tx = startRun T G tx) :
    ∃ t, awaitIdle (n + 1) s = some t ∧ endedComplete t.tx = true ∧ t.tx.bitIdx = n + 1 ∧
      t.tx.txTime = ones tx.bits * T + zeros tx.bits * G ∧ t.env.turns = s.env.turns := by
  have hinv : TxInv P s.tx := hs ▸ h.after_startRun T G hidle hvalid hopen
  rw [startRun_of_nonempty (by omega)] at hs
  have hleft : s.tx.bitIdx + (n + 1) = s.tx.nbits := by simp [hs, hn]
  obtain ⟨t, ht, hended, hsame, hupTo, hturns⟩ := awaitIdle_of_run hinv (by rw [hs]) hleft
  refine ⟨t, ht, hended, ?_, ?_, hturns⟩
  · simpa [hs, hn] using hupTo.bitIdx
  · have hbits : t.tx.bits.take s.tx.nbits = tx.bits := by simp [hsame.bits, hs, h.nbits_eq]
    rw [hupTo.txTime, hbits, hsame.txT, hsame.txG, hs]

end

end Sys2Proof.Machine

namespace Sys2Proof.Proofs

open Sys2Proof.Machine

/-- Settles O31: `ENCODE` and `TRANSMIT` are accepted, and the run they start ends by induction on the bits left. -/
theorem sendCompletes : Obligations.SendCompletes := by
  unfold Obligations.SendCompletes
  intro payload T G s h hidle hopen
  obtain ⟨u, hsend, hu, hturns⟩ := send_eq_awaitIdle (13 + 8 * payload.length) payload T G hidle hopen
  have hinv := (h.tx.static.after_storePayload payload).txInv_of_idle hidle
  have hlength : 13 + 8 * payload.length = 12 + 8 * payload.length + 1 := by omega
  rw [hsend, ← hturns, hlength]
  exact awaitIdle_of_startRun hinv hidle rfl hopen hlength hu

end Sys2Proof.Proofs

/-! `DRAIN` ends by itself once the flag is set (R104, R203, R227): each `READ_WAIT` takes the head of the queue the ring
holds, and the first that finds no head sees the flag and answers end of stream. -/

namespace Sys2Proof.Machine

/-! ### What a read finds in the queue (R76, R185) -/

section
variable {rx : RxState} {d : Block} {q : List Block}

/-- The slot at `RB_RD` is the first cell of the queue. -/
theorem RingQueue.slotRead_rbRd (h : RingQueue rx q) : slotRead rx rx.rbRd = some (queueCell q 0) := by
  have hhead := h.cell_eq 0 h.rbK_pos
  rwa [Nat.add_zero, Nat.mod_eq_of_lt h.rbRd_lt] at hhead

theorem RingQueue.ringRead_of_nil (h : RingQueue rx []) (hbuilt : rx.rbState = .built) :
    ringRead rx = .refuse .wait := by
  simp [ringRead, hbuilt, h.slotRead_rbRd, queueCell, Slot.empty]

theorem RingQueue.ringRead_of_cons (h : RingQueue rx (d :: q)) (hbuilt : rx.rbState = .built) :
    ringRead rx = .ok (.block d) (drainSlot d rx) := by
  simp [ringRead, hbuilt, h.slotRead_rbRd, queueCell, Slot.full]

theorem ringGetDone_of_built (hbuilt : rx.rbState = .built) : ringGetDone rx = .ok (.flag rx.rbDone) rx := by
  simp [ringGetDone, hbuilt]

end

/-! ### The consumer's commands (R96, R227) -/

section
variable {s : State} {d : Block} {q : List Block}

theorem issue_rbRead_of_nil (h : RingQueue s.rx []) (hbuilt : s.rx.rbState = .built) :
    issue .rbRead s = some (s.respond .cns (.plain .wait), .plain .wait) := by
  have hexec : exec .rbRead s = .next (s.respond .cns (.plain .wait)) :=
    congrArg (answerRing .cns · s) (h.ringRead_of_nil hbuilt)
  exact issue_of_exec rfl hexec rfl

theorem issue_rbRead_of_cons (h : RingQueue s.rx (d :: q)) (hbuilt : s.rx.rbState = .built) :
    issue .rbRead s =
      some ((s.withRx (drainSlot d s.rx)).respond .cns ⟨.ok, .none, .block d⟩, ⟨.ok, .none, .block d⟩) := by
  have hexec : exec .rbRead s = .next ((s.withRx (drainSlot d s.rx)).respond .cns ⟨.ok, .none, .block d⟩) :=
    congrArg (answerRing .cns · s) (h.ringRead_of_cons hbuilt)
  exact issue_of_exec rfl hexec rfl

theorem issue_rbGetDone_of_done (hbuilt : s.rx.rbState = .built) (hdone : s.rx.rbDone = true) :
    issue .rbGetDone s = some (s.respond .cns ⟨.ok, .none, .flag true⟩, ⟨.ok, .none, .flag true⟩) := by
  have hexec : exec .rbGetDone s = .next (s.respond .cns ⟨.ok, .none, .flag true⟩) := by
    rw [← hdone]
    exact congrArg (answerRing .cns · s) (ringGetDone_of_built hbuilt)
  exact issue_of_exec rfl hexec rfl

/-! ### `READ_WAIT` and `DRAIN` on a completed ring (R104, R227) -/

variable {t : State} {p p' : ReadPhase} {r : Response} {v : ReadResult}

theorem readTurn_of_issue (h : issue (readCommand p) s = some (t, r)) : readTurn p s = some (t, readReact p r) := by
  rw [readTurn, h, Option.map_some]

theorem readWait_of_answer (h : readTurn p s = some (t, .answer v)) (n : Nat) :
    readWait (n + 1) p s = some (t, v) := by rw [readWait, h]

theorem readWait_of_go (h : readTurn p s = some (t, .go p')) (n : Nat) :
    readWait (n + 1) p s = readWait n p' t := by rw [readWait, h]

/-- With a Block pending, the first look reads it. -/
theorem readWait_of_cons (h : RingQueue s.rx (d :: q)) (hbuilt : s.rx.rbState = .built) (n : Nat) :
    ∃ t, readWait (n + 1) .look s = some (t, .data d) ∧ t.rx = drainSlot d s.rx ∧ t.env.turns = s.env.turns :=
  ⟨_, readWait_of_answer (readTurn_of_issue (p := .look) (issue_rbRead_of_cons h hbuilt)) n, rfl, rfl⟩

/-- With nothing pending and the flag set, the three commands of the protocol wait, see the flag, and wait again. -/
theorem readWait_of_nil (h : RingQueue s.rx []) (hbuilt : s.rx.rbState = .built) (hdone : s.rx.rbDone = true) :
    ∃ t, readWait 3 .look s = some (t, .endOfStream) ∧ t.rx = s.rx ∧ t.env.turns = s.env.turns := by
  have hlook := readTurn_of_issue (p := .look) (issue_rbRead_of_nil h hbuilt)
  have hcheck := readTurn_of_issue (p := .check)
    (issue_rbGetDone_of_done (s := s.respond .cns (.plain .wait)) hbuilt hdone)
  have hagain := readTurn_of_issue (p := .lookAgain) (issue_rbRead_of_nil
    (s := (s.respond .cns (.plain .wait)).respond .cns ⟨.ok, .none, .flag true⟩) h hbuilt)
  exact ⟨_, (readWait_of_go hlook 2).trans ((readWait_of_go hcheck 1).trans (readWait_of_answer hagain 0)), rfl, rfl⟩

theorem drain_of_data (h : readWait 3 .look s = some (t, .data d)) (n : Nat) :
    drain (n + 1) s = (drain n t).map fun x => (x.1, d :: x.2.1, x.2.2) := by rw [drain, h]

theorem drain_of_endOfStream (h : readWait 3 .look s = some (t, .endOfStream)) (n : Nat) :
    drain (n + 1) s = some (t, [], .endOfStream) := by rw [drain, h]

/-- `DRAIN` of a completed ring answers its queue, by induction on it, and leaves the ring with nothing pending. -/
theorem drain_of_ringQueue (h : RingQueue s.rx q) (hbuilt : s.rx.rbState = .built) (hdone : s.rx.rbDone = true) :
    ∃ t, drain (q.length + 1) s = some (t, q, .endOfStream) ∧ RingQueue t.rx [] ∧ t.rx.rbWseq = s.rx.rbWseq ∧
      t.env.turns = s.env.turns := by
  induction q generalizing s with
  | nil =>
    obtain ⟨t, hwait, hrx, hturns⟩ := readWait_of_nil h hbuilt hdone
    exact ⟨t, drain_of_endOfStream hwait 0, hrx ▸ h, by rw [hrx], hturns⟩
  | cons d q ih =>
    obtain ⟨u, hwait, hrx, hturns⟩ := readWait_of_cons h hbuilt 2
    have hqueue : RingQueue u.rx q := hrx ▸ h.after_drainSlot
    obtain ⟨t, hdrain, hempty, hwseq, hturns'⟩ := ih hqueue (hrx ▸ hbuilt) (hrx ▸ hdone)
    refine ⟨t, ?_, hempty, by rw [hwseq, hrx]; rfl, hturns'.trans hturns⟩
    rw [List.length_cons, drain_of_data hwait, hdrain, Option.map_some]

end

end Sys2Proof.Machine

namespace Sys2Proof.Proofs

open Sys2Proof.Machine

/-- Settles O47: the ring holds its pending Blocks as a queue, and `DRAIN` reads a queue to its end. -/
theorem drainReturnsEverything : Obligations.DrainReturnsEverything := by
  unfold Obligations.DrainReturnsEverything
  intro s h hbuilt hdone
  obtain ⟨q, hq⟩ := (h.rx.ringInv_of_built hbuilt).exists_ringQueue
  obtain ⟨t, hdrain, hempty, hwseq, hturns⟩ := drain_of_ringQueue hq hbuilt hdone
  rw [hq.occ_eq, hq.pendingBlocks_eq]
  have hocc : occ t.rx = 0 := hempty.occ_eq
  obtain ⟨-, hread⟩ := hempty.fifo
  exact ⟨t, hdrain, (hread hocc).trans hwseq, hocc, hturns⟩

end Sys2Proof.Proofs

/-! The bit-encoder: decoding takes an assembled payload apart again, byte by byte (R126), from which
injectivity follows (R125); its length and its first bits (R123, R124); and the three outcomes of `ENCODE` (R121). -/

namespace Sys2Proof.Machine

/-! ### A byte from its eight bits (R16, R233) -/

theorem sum_binaryDigits (n w : Nat) : ((List.range w).map fun k => n / 2 ^ k % 2 * 2 ^ k).sum = n % 2 ^ w := by
  induction w with
  | zero => exact (Nat.mod_one n).symm
  | succ w ih =>
    rw [List.range_succ, List.map_append, List.sum_append, ih, List.map_singleton, List.sum_singleton, Nat.mod_pow_succ,
      Nat.mul_comm (2 ^ w)]

/-- A byte is the sum of its binary digits; `bits8` lists them from bit 7 down. -/
theorem byte8_bits8 (v : Byte) : byte8 (bits8 v) = v := by
  have hdigits := sum_binaryDigits v.toNat 8
  apply BitVec.eq_of_toNat_eq
  simp [byte8, bits8, bitOf, List.range_succ] at hdigits ⊢
  omega

/-! ### Decoding the assembled bits (R126) -/

section
variable {preamble s : List Bit} {pl n : Nat}

theorem encodePayload_length (preamble : List Bit) (payload : List Byte) :
    (encodePayload preamble payload).length = preamble.length + 8 * payload.length := by
  rw [encodePayload, List.length_append, flatMap_bits8_length]

theorem encodePayload_take (preamble : List Bit) (payload : List Byte) :
    (encodePayload preamble payload).take preamble.length = preamble := List.take_left

/-- Past the preamble only the bits of the payload are left. -/
theorem encodePayload_drop (preamble : List Bit) (payload : List Byte) (i : Nat) :
    (encodePayload preamble payload).drop (preamble.length + i) = (payload.flatMap bits8).drop i := by
  rw [encodePayload, ← List.drop_drop, List.drop_left]

theorem decodePayload_eq_none_iff : decodePayload pl s = none ↔ s.length < pl ∨ (s.length - pl) % 8 ≠ 0 := by
  unfold decodePayload
  split
  · next hoff => exact iff_of_true rfl hoff
  · next hon => exact iff_of_false (Option.some_ne_none _) hon

theorem decodePayload_of_length (h : s.length = pl + 8 * n) :
    decodePayload pl s = some ((List.range n).map fun j => byte8 ((s.drop (pl + 8 * j)).take 8)) := by
  have hon : ¬(s.length < pl ∨ (s.length - pl) % 8 ≠ 0) := by omega
  have hgroups : (s.length - pl) / 8 = n := by omega
  rw [decodePayload, if_neg hon, hgroups]

/-- The groups of eight bits of a payload are its bytes, by induction on the payload: the first byte fills the first
group, and the others stand one group further on. -/
theorem byte8_groups_flatMap_bits8 (payload : List Byte) :
    ((List.range payload.length).map fun j => byte8 (((payload.flatMap bits8).drop (8 * j)).take 8)) = payload := by
  induction payload with
  | nil => rfl
  | cons v vs ih =>
    have hfirst : ((bits8 v ++ vs.flatMap bits8).drop (8 * 0)).take 8 = bits8 v := List.take_left' rfl
    have hnext (j : Nat) : (bits8 v ++ vs.flatMap bits8).drop (8 * (j + 1)) = (vs.flatMap bits8).drop (8 * j) := by
      rw [Nat.mul_succ, Nat.add_comm, ← List.drop_drop, List.drop_left' (bits8_length v)]
    rw [List.length_cons, List.range_succ_eq_map, List.map_cons, List.map_map, List.flatMap_cons, hfirst, byte8_bits8]
    simp only [Function.comp_def, hnext, ih]

theorem decodePayload_encodePayload (preamble : List Bit) (payload : List Byte) :
    decodePayload preamble.length (encodePayload preamble payload) = some payload := by
  rw [decodePayload_of_length (encodePayload_length preamble payload)]
  simp only [encodePayload_drop, byte8_groups_flatMap_bits8]

/-- What can be decoded was encoded from one payload only (R125). -/
theorem encodePayload_injective {p q : List Byte} (h : encodePayload preamble p = encodePayload preamble q) : p = q :=
  Option.some.inj <| calc
    some p = decodePayload preamble.length (encodePayload preamble p) := (decodePayload_encodePayload preamble p).symm
    _ = decodePayload preamble.length (encodePayload preamble q) := by rw [h]
    _ = some q := decodePayload_encodePayload preamble q

end

/-! ### The outcomes of `ENCODE` (R121) -/

section
variable {P : Params} {payload : List Byte} {s : State} {m : Nat}

theorem payloadTooLong_of_lt (hmax : P.payloadMax = some m) (hlong : m < payload.length) :
    payloadTooLong P payload = true := by simp [payloadTooLong, hmax, hlong]

theorem payloadTooLong_of_le (hfits : ∀ m, P.payloadMax = some m → payload.length ≤ m) :
    payloadTooLong P payload = false := by
  unfold payloadTooLong
  split
  · rfl
  · next m hmax => exact decide_eq_false (Nat.not_lt.mpr (hfits m hmax))

theorem execEncodeWith_of_run (P : Params) (payload : List Byte) (hrun : s.tx.txState = .run) :
    execEncodeWith P payload s = .next (s.respond .txh (.plain .busy)) := if_pos hrun

theorem execEncodeWith_of_idle (P : Params) (payload : List Byte) (hidle : s.tx.txState = .idle) :
    execEncodeWith P payload s =
      if payloadTooLong P payload = true then .next (s.respond .txh (.plain .param))
      else .next ((s.withTx (storePayload P payload s.tx)).respond .txh
        ⟨.ok, .none, .bits (encodePayload P.preamble payload)⟩) := by
  have hrun : s.tx.txState ≠ .run := by rw [hidle]; decide
  exact if_neg hrun

theorem execEncodeWith_of_tooLong (hidle : s.tx.txState = .idle) (hlong : payloadTooLong P payload = true) :
    execEncodeWith P payload s = .next (s.respond .txh (.plain .param)) := by
  rw [execEncodeWith_of_idle P payload hidle, if_pos hlong]

theorem execEncodeWith_of_fits (hidle : s.tx.txState = .idle) (hfits : payloadTooLong P payload = false) :
    execEncodeWith P payload s = .next ((s.withTx (storePayload P payload s.tx)).respond .txh
      ⟨.ok, .none, .bits (encodePayload P.preamble payload)⟩) := by
  rw [execEncodeWith_of_idle P payload hidle, if_neg (by rw [hfits]; decide)]

end

end Sys2Proof.Machine

namespace Sys2Proof.Proofs

open Sys2Proof.Machine

/-- Settles O11, from the groups of eight bits of an assembled payload. -/
theorem payloadRoundTrip : Obligations.PayloadRoundTrip := by
  unfold Obligations.PayloadRoundTrip
  refine ⟨decodePayload_encodePayload, ?_, ?_⟩
  · exact fun pl n s h => decodePayload_of_length h
  · exact fun pl s => decodePayload_eq_none_iff

/-- Settles O13; injectivity is from the round trip. -/
theorem encodedPrefixAndInjectivity : Obligations.EncodedPrefixAndInjectivity := by
  unfold Obligations.EncodedPrefixAndInjectivity
  exact fun preamble =>
    ⟨encodePayload_take preamble, encodePayload_nil preamble, fun p q => encodePayload_injective⟩

/-- Settles O12. -/
theorem encodedLength : Obligations.EncodedLength := by
  unfold Obligations.EncodedLength
  exact ⟨fun P => encodePayload_length P.preamble, encodePayload_length Config.preamble⟩

/-- Settles O15: the three outcomes for any parameters, and the two there are without a bound on the payload. -/
theorem encodeOperation : Obligations.EncodeOperation := by
  unfold Obligations.EncodeOperation
  refine ⟨fun a => rfl, ?_, ?_, ?_, ?_, ?_⟩
  · exact fun P payload s hrun => execEncodeWith_of_run P payload hrun
  · exact fun P payload s m hidle hmax hlong => execEncodeWith_of_tooLong hidle (payloadTooLong_of_lt hmax hlong)
  · exact fun P payload s hidle hfits => execEncodeWith_of_fits hidle (payloadTooLong_of_le hfits)
  · exact fun payload s hrun => execEncodeWith_of_run Config.params payload hrun
  · exact fun payload s hidle => exec_encode_of_idle payload hidle

/-- Settles O16: the stores of an accepted `ENCODE` set `NBITS` and leave `BIT_IDX` alone. -/
theorem encodeMayLeaveBitIdxAboveLength : Obligations.EncodeMayLeaveBitIdxAboveLength := by
  unfold Obligations.EncodeMayLeaveBitIdxAboveLength
  intro payload s hidle habove
  exact ⟨_, exec_encode_of_idle payload hidle, rfl, habove⟩

end Sys2Proof.Proofs

/-! The event stream of a complete run (R154), over every interleaving. While a run goes on, a turn that is neither the
scheduler's, nor a `CANCEL`, nor `RST_TX` leaves the TX elements alone; and each `STEP` adds one bit to the record of
what has been scheduled. The turns are then gone through one by one. -/

namespace Sys2Proof.Machine

/-! ### A transition takes its turn off (R74; log 1) -/

section
variable {s t : State} {i : Instr}

@[simp] theorem cancelActuator_turns (s : State) : (cancelActuator s).env.turns = s.env.turns := by
  unfold cancelActuator
  split <;> rfl

/-- No operation reads or writes the turns still to be taken. -/
theorem exec_turns (h : exec i s = .next t) : t.env.turns = s.env.turns := by
  by_cases hi : isTxOp i = true
  · cases i with
    | gap => obtain rfl := Host.Outcome.next.inj h; rfl
    | pulse => obtain rfl := Host.Outcome.next.inj h; rfl
    | encode payload => obtain ⟨-, rfl⟩ | ⟨-, -, rfl⟩ | ⟨-, -, rfl⟩ := execEncodeWith_next h <;> rfl
    | actInit => obtain ⟨-, rfl⟩ | ⟨-, -, rfl⟩ | ⟨-, -, rfl⟩ := execActInit_next h <;> rfl
    | transmit T G => obtain ⟨-, rfl⟩ | ⟨-, -, rfl⟩ | ⟨-, -, -, rfl⟩ := execTransmit_next h <;> rfl
    | cancel => obtain rfl := Host.Outcome.next.inj h; exact cancelActuator_turns s
    | actShutdown => obtain ⟨-, rfl⟩ | ⟨-, -, rfl⟩ | ⟨-, -, rfl⟩ := execActShutdown_next h <;> rfl
    | _ => cases hi
  · obtain ⟨p, -, op, hop⟩ := exists_ringOp (Bool.not_eq_true _ ▸ hi)
    rw [hop] at h
    obtain ⟨v, rx, -, rfl⟩ | ⟨st, -, rfl⟩ := answerRing_next h <;> rfl

theorem schedulerTurn_turns (h : schedulerTurn s = .next t) : t.env.turns = s.env.turns := by
  obtain ⟨-, rfl⟩ | ⟨-, hstep⟩ := schedulerTurn_next h
  · rfl
  · obtain ⟨b, -, ⟨-, rfl⟩ | ⟨-, rfl⟩⟩ := schedulerStep_next hstep <;> rfl

theorem step_turns (h : step s = .next t) : t.env.turns = s.env.turns.tail := by
  obtain ⟨-, hsched⟩ | ⟨p, op, a, ts, hts, hcmd⟩ | ⟨ts, hts, rfl⟩ | ⟨ts, hts, rfl⟩ := step_next h
  · exact schedulerTurn_turns hsched
  · rw [hts, List.tail_cons]
    obtain ⟨i, -, hexec⟩ | ⟨r, -, rfl⟩ := commandTurn_exec hcmd
    · exact exec_turns hexec
    · rfl
  · rw [hts, List.tail_cons]; rfl
  · rw [hts, List.tail_cons]; rfl

end

/-! ### The events of a run (R154) -/

section
variable (T G : Nat)

@[simp] theorem runEvents_cons_one (bs : List Bit) (rs : List PulseAnswer) (time : Nat) :
    runEvents T G (1 :: bs) rs time = .pulse time T (rs.headD .ok) :: runEvents T G bs rs.tail (time + T) := rfl

@[simp] theorem runEvents_cons_zero (bs : List Bit) (rs : List PulseAnswer) (time : Nat) :
    runEvents T G (0 :: bs) rs time = .gap time G :: runEvents T G bs rs (time + G) := rfl

/-- With one answer for each 1-bit of `bs`, the bits `cs` after it take the further answers, and the time goes on from
where `bs` ends. -/
theorem runEvents_append (bs cs : List Bit) (rs qs : List PulseAnswer) (time : Nat) (h : rs.length = ones bs) :
    runEvents T G (bs ++ cs) (rs ++ qs) time =
      runEvents T G bs rs time ++ runEvents T G cs qs (time + (ones bs * T + zeros bs * G)) := by
  induction bs generalizing rs time with
  | nil =>
    obtain rfl := List.eq_nil_of_length_eq_zero h
    simp [runEvents, ones, zeros]
  | cons b bs ih =>
    obtain rfl | rfl := bit_zero_or_one b
    · have hones : ones (0 :: bs) = ones bs := by simp [ones]
      have hzeros : zeros (0 :: bs) = zeros bs + 1 := by simp [zeros]
      have htime : time + G + (ones bs * T + zeros bs * G) = time + (ones bs * T + (zeros bs + 1) * G) := by ring
      rw [List.cons_append, runEvents_cons_zero, runEvents_cons_zero, ih rs _ (h.trans hones), hones, hzeros, htime,
        List.cons_append]
    · have hones : ones (1 :: bs) = ones bs + 1 := by simp [ones]
      have hzeros : zeros (1 :: bs) = zeros bs := by simp [zeros]
      obtain ⟨r, rs, rfl⟩ := List.exists_cons_of_length_eq_add_one (h.trans hones)
      have hlen : rs.length = ones bs := Nat.succ_injective (h.trans hones)
      have htime : time + T + (ones bs * T + zeros bs * G) = time + ((ones bs + 1) * T + zeros bs * G) := by ring
      rw [List.cons_append, List.cons_append, runEvents_cons_one, runEvents_cons_one, List.tail_cons, List.tail_cons,
        ih rs _ hlen, hones, hzeros, htime, List.cons_append]
      rfl

theorem failures_append_ok (rs : List PulseAnswer) : failures (rs ++ [.ok]) = failures rs := by simp [failures]

theorem failures_append_err (rs : List PulseAnswer) (k : PulseError) :
    failures (rs ++ [.err k]) = failures rs + 1 := by simp [failures]

end

/-! ### What a run has done so far (R154) -/

/-- In `tx` the run of the durations `T` and `G` has scheduled the bits `bs`, the pulses answered by `rs`, and `evs` was
the event stream before it. -/
structure RunRecord (T G : Nat) (evs : List Event) (bs : List Bit) (rs : List PulseAnswer) (tx : TxState) : Prop where
  txT : tx.txT = T
  txG : tx.txG = G
  answered : rs.length = ones bs
  txEv : tx.txEv = evs ++ runEvents T G bs rs 0
  txTime : tx.txTime = ones bs * T + zeros bs * G
  failCnt : tx.failCnt = failures rs
  opened : tx.actState = .opened

section
variable {T G : Nat} {evs : List Event} {bs : List Bit} {rs : List PulseAnswer} {tx : TxState}

theorem RunRecord.of_startRun (T G : Nat) (hopen : tx.actState = .opened) (hn : tx.nbits ≠ 0) :
    RunRecord T G tx.txEv [] [] (startRun T G tx) := by
  rw [startRun_of_nonempty hn]
  exact ⟨rfl, rfl, rfl, (List.append_nil _).symm, by simp [ones, zeros], rfl, hopen⟩

theorem RunRecord.after_advanceBit (h : RunRecord T G evs bs rs tx) (i : Nat) :
    RunRecord T G evs bs rs (advanceBit i tx) := by
  unfold advanceBit
  split <;> exact ⟨h.txT, h.txG, h.answered, h.txEv, h.txTime, h.failCnt, h.opened⟩

theorem applyPulse_failCnt (r : PulseAnswer) (h : tx.failCnt = failures rs) :
    (applyPulse r tx).failCnt = failures (rs ++ [r]) := by
  cases r with
  | ok => exact h.trans (failures_append_ok rs).symm
  | err k => exact (congrArg (· + 1) h).trans (failures_append_err rs k).symm

/-- A 1-bit (R151): one answer, one event at the scheduled time, and that time moved on by `T`. -/
theorem RunRecord.after_pulse (h : RunRecord T G evs bs rs tx) (r : PulseAnswer) :
    RunRecord T G evs (bs ++ [1]) (rs ++ [r]) (applyPulse r tx) where
  txT := (applyPulse_txT r tx).trans h.txT
  txG := (applyPulse_txG r tx).trans h.txG
  answered := by rw [List.length_append, h.answered, ones_append_one, List.length_singleton]
  txEv := by
    rw [applyPulse_txEv, h.txEv, h.txTime, h.txT, runEvents_append T G bs [1] rs [r] 0 h.answered, Nat.zero_add,
      List.append_assoc]
    rfl
  txTime := by
    rw [applyPulse_txTime, h.txTime, h.txT, ones_append_one, zeros_append_one]
    ring
  failCnt := applyPulse_failCnt r h.failCnt
  opened := (applyPulse_actState r tx).trans h.opened

/-- A 0-bit (R152): one event at the scheduled time, and that time moved on by `G`. -/
theorem RunRecord.after_gap (h : RunRecord T G evs bs rs tx) : RunRecord T G evs (bs ++ [0]) rs (applyGap tx) where
  txT := h.txT
  txG := h.txG
  answered := h.answered.trans (ones_append_zero bs).symm
  txEv := by
    have happend := runEvents_append T G bs [0] rs [] 0 h.answered
    rw [List.append_nil, Nat.zero_add] at happend
    rw [applyGap_eq, happend, h.txEv, h.txTime, h.txG, List.append_assoc]
    rfl
  txTime := by
    rw [applyGap_eq, h.txTime, h.txG, ones_append_zero, zeros_append_zero]
    ring
  failCnt := h.failCnt
  opened := h.opened

end

/-! ### The turns of a run, one by one (R74, R150) -/

section
variable {P : Params} {T G : Nat} {evs : List Event} {rs : List PulseAnswer} {s t : State} {tx : TxState}
  {cs : List ActCall} {vs rest : List Turn}

/-- A `STEP` adds the bit it fetches to the record. -/
theorem RunRecord.after_schedulerTurn (h : RunRecord T G evs (s.tx.bits.take s.tx.bitIdx) rs s.tx)
    (hrun : s.tx.txState = .run) (hturn : schedulerTurn s = .next t) :
    ∃ rs', RunRecord T G evs (s.tx.bits.take (s.tx.bitIdx + 1)) rs' t.tx := by
  obtain ⟨hidle, -⟩ | ⟨-, hstep⟩ := schedulerTurn_next hturn
  · rw [hrun] at hidle
    cases hidle
  · obtain ⟨b, hfetch, ⟨rfl, rfl⟩ | ⟨rfl, rfl⟩⟩ := schedulerStep_next hstep
    · rw [take_succ_of_fetch hfetch]
      exact ⟨_, (h.after_pulse s.env.nextPulse).after_advanceBit _⟩
    · rw [take_succ_of_fetch hfetch]
      exact ⟨_, h.after_gap.after_advanceBit _⟩

/-- The last `STEP` discards the BitSequence (R25, R150). -/
theorem schedulerTurn_bitsValid_of_last (hrun : s.tx.txState = .run) (hlast : s.tx.bitIdx + 1 = s.tx.nbits)
    (hturn : schedulerTurn s = .next t) : t.tx.bitsValid = false := by
  obtain ⟨hidle, -⟩ | ⟨-, hstep⟩ := schedulerTurn_next hturn
  · rw [hrun] at hidle
    cases hidle
  · obtain ⟨b, -, ⟨-, rfl⟩ | ⟨-, rfl⟩⟩ := schedulerStep_next hstep
    · have hlast : s.tx.bitIdx + 1 = (applyPulse s.env.nextPulse s.tx).nbits := by rw [applyPulse_nbits, hlast]
      rw [advanceBit_last hlast]
    · have hlast : s.tx.bitIdx + 1 = (applyGap s.tx).nbits := hlast
      rw [State.withTx_tx, advanceBit_last hlast]

/-- During a run only the scheduler, `CANCEL` and `RST_TX` reach the TX elements. -/
theorem TxEffect.eq_of_run (e : TxEffect P s tx cs) (hrun : s.tx.txState = .run) (hsched : ¬NextIsSched s)
    (hcancel : ¬NextIsCommand s .cancel) (hrst : ¬NextIsRstTx s) : tx = s.tx := by
  have hidle : s.tx.txState ≠ .idle := by rw [hrun]; decide
  cases e with
  | unchanged => rfl
  | encode _ _ idle => exact absurd idle hidle
  | initAgain _ idle _ => exact absurd idle hidle
  | init _ idle _ => exact absurd idle hidle
  | transmit _ _ _ idle _ _ => exact absurd idle hidle
  | shutdown _ idle _ => exact absurd idle hidle
  | cancelClosed turn _ => exact absurd turn hcancel
  | cancelOpened turn _ => exact absurd turn hcancel
  | pulse turn _ _ => exact absurd turn hsched
  | gap turn _ _ => exact absurd turn hsched
  | reset turn => exact absurd turn hrst

theorem NextIsCommand.turns_of_cancel (h : NextIsCommand s .cancel) :
    ∃ a ts, s.env.turns = .cmd .can 0b0100 a :: ts := by
  obtain ⟨p, op, a, a', ts, hts, he⟩ := h.turns_eq
  cases he
  exact ⟨a, ts, hts⟩

/-- While a run goes on, a turn of another agent, other than on port `CAN`, leaves the TX elements alone. -/
theorem tx_eq_of_otherTurn {u : Turn} (hstep : step s = .next t) (hrun : s.tx.txState = .run)
    (hturns : s.env.turns = u :: vs) (hsched : u ≠ .sched) (hrst : u ≠ .rstTx) (hcan : ∀ op a, u ≠ .cmd .can op a) :
    t.tx = s.tx := by
  obtain ⟨cs, e, -⟩ := step_hasTxEffect hstep
  refine e.eq_of_run hrun ?_ (fun h => ?_) ?_
  · simp [NextIsSched, hturns, hsched]
  · obtain ⟨a, ts, hts⟩ := h.turns_of_cancel
    rw [hturns] at hts
    exact hcan _ _ (List.head_eq_of_cons_eq hts)
  · simp [NextIsRstTx, hturns, hrst]

/-- During a run the next scheduler's turn answers: one bit more scheduled and on record. -/
theorem RunRecord.step_of_sched (h : RunRecord T G evs (s.tx.bits.take s.tx.bitIdx) rs s.tx) (hinv : TxInv P s.tx)
    (hrun : s.tx.txState = .run) (hturn : NextIsSched s) :
    ∃ t rs', step s = .next t ∧ OneBitScheduled (s.withTurns s.env.turns.tail) t ∧
      RunRecord T G evs (s.tx.bits.take (s.tx.bitIdx + 1)) rs' t.tx ∧
      (s.tx.bitIdx + 1 = s.tx.nbits → t.tx.bitsValid = false) := by
  obtain ⟨t, ht, hbit⟩ := schedulerTurn_oneBitScheduled (s := s.withTurns s.env.turns.tail) hinv hrun
  obtain ⟨rs', hrec⟩ := RunRecord.after_schedulerTurn (s := s.withTurns s.env.turns.tail) h hrun ht
  exact ⟨t, rs', (step_of_nextIsSched hturn).trans ht, hbit, hrec,
    fun hlast => schedulerTurn_bitsValid_of_last (s := s.withTurns s.env.turns.tail) hrun hlast ht⟩

/-- A run whose last `STEP` is the last of the turns looked at ends complete, by induction on the turns before it. -/
theorem RunRecord.run_completes (h : RunRecord T G evs (s.tx.bits.take s.tx.bitIdx) rs s.tx) (hsound : Sound s)
    (hrun : s.tx.txState = .run) (hturns : s.env.turns = vs ++ .sched :: rest)
    (hcount : s.tx.bitIdx + (vs.count .sched + 1) = s.tx.nbits)
    (hvs : ∀ u ∈ vs, u ≠ .rstTx ∧ ∀ op a, u ≠ .cmd .can op a) :
    ∃ t rs', Host.Core.run Sys2Proof.core (vs.length + 1) s = .next t ∧ RunRecord T G evs s.tx.bits rs' t.tx ∧
      endedComplete t.tx = true ∧ t.tx.bitIdx = s.tx.nbits ∧ t.tx.bitsValid = false ∧ t.env.turns = rest := by
  induction vs generalizing s rs with
  | nil =>
    obtain ⟨t, rs', hstep, hbit, hrec, hdiscard⟩ := h.step_of_sched hsound.tx hrun (.inr ⟨rest, hturns⟩)
    have hlast : s.tx.bitIdx + 1 = s.tx.nbits := hcount
    have hall : s.tx.bits.take (s.tx.bitIdx + 1) = s.tx.bits := by rw [hlast, hsound.tx.nbits_eq, List.take_length]
    have hrest : t.env.turns = rest := by rw [step_turns hstep, hturns]; rfl
    exact ⟨t, rs', run_succ hstep, hall ▸ hrec, hbit.ends hlast, hbit.upTo.bitIdx.trans hlast, hdiscard hlast, hrest⟩
  | cons u vs ih =>
    obtain ⟨⟨hrst, hcan⟩, hothers⟩ := List.forall_mem_cons.mp hvs
    by_cases hsched : u = .sched
    · subst hsched
      obtain ⟨t, rs', hstep, hbit, hrec, -⟩ := h.step_of_sched hsound.tx hrun (.inr ⟨_, hturns⟩)
      have hidx : t.tx.bitIdx = s.tx.bitIdx + 1 := hbit.upTo.bitIdx
      have hbits : t.tx.bits = s.tx.bits := hbit.same.bits
      have hnbits : t.tx.nbits = s.tx.nbits := hbit.same.nbits
      have hturns' : t.env.turns = vs ++ .sched :: rest := by rw [step_turns hstep, hturns]; rfl
      rw [List.count_cons_self] at hcount
      have hinner : s.tx.bitIdx + 1 ≠ s.tx.nbits := by omega
      rw [← hbits, ← hidx] at hrec
      rw [run_succ hstep, ← hbits, ← hnbits]
      exact ih hrec (hsound.after_step hstep) (hbit.runs hinner) hturns' (by omega) hothers
    · obtain ⟨t, hstep⟩ := hsound.step_completes
      have htx := tx_eq_of_otherTurn hstep hrun hturns hsched hrst hcan
      have hturns' : t.env.turns = vs ++ .sched :: rest := by rw [step_turns hstep, hturns]; rfl
      rw [List.count_cons_of_ne hsched] at hcount
      rw [run_succ hstep, ← htx]
      exact ih (htx ▸ h) (hsound.after_step hstep) (htx ▸ hrun) hturns' (htx ▸ hcount) hothers

end

end Sys2Proof.Machine

namespace Sys2Proof.Proofs

open Sys2Proof.Machine

/-- Settles O30: the run begins with nothing on record, and goes through the turns to its last `STEP`. -/
theorem runEmitsItsEventStream : Obligations.RunEmitsItsEventStream := by
  unfold Obligations.RunEmitsItsEventStream
  intro s₀ s T G vs rest hsound hidle hvalid hopen hexec hturns hcount hvs
  have hs := Host.Outcome.next.inj (hexec.symm.trans (exec_transmit_of_ready T G hidle hvalid hopen))
  have htx : s.tx = startRun T G s₀.tx := by rw [hs]; rfl
  have hrx : s.rx = s₀.rx := by rw [hs]; rfl
  have hn : s₀.tx.nbits ≠ 0 := by omega
  have hbits : s.tx.bits = s₀.tx.bits := htx ▸ startRun_bits s₀.tx T G
  have hnbits : s.tx.nbits = s₀.tx.nbits := htx ▸ startRun_nbits s₀.tx T G
  have hidx : s.tx.bitIdx = 0 := htx ▸ startRun_bitIdx s₀.tx T G
  have hrun : s.tx.txState = .run := by rw [htx, startRun_of_nonempty hn]
  have hsound' : Sound s := ⟨htx ▸ hsound.tx.after_startRun T G hidle hvalid hopen, hrx ▸ hsound.rx⟩
  have hstart : RunRecord T G s₀.tx.txEv (s.tx.bits.take s.tx.bitIdx) [] s.tx := by
    rw [hidx, List.take_zero, htx]
    exact .of_startRun T G hopen hn
  obtain ⟨t, rs, ht, hrec, hended, hlast, hdiscarded, hrest⟩ :=
    hstart.run_completes hsound' hrun hturns (by omega) hvs
  obtain ⟨hidle', hdone⟩ := endedComplete_iff.mp hended
  rw [hbits] at hrec
  exact ⟨t, rs, ht, hrec.answered, hrec.txEv, hlast.trans hnbits, hrec.txTime, hrec.failCnt, hidle', hdone, hdiscarded,
    hrec.opened, hrest⟩

end Sys2Proof.Proofs

/-! What starts and what ends a run (R156, R158): a run starts by `TRANSMIT` alone, which needs a BitSequence, and every
end of a run discards it; so without a new `ENCODE` nothing resumes. -/

namespace Sys2Proof.Machine

section
variable {P : Params} {s t : State} {tx : TxState} {cs : List ActCall}

theorem NextIsCommand.turns_of_encode {payload : List Byte} (h : NextIsCommand s (.encode payload)) :
    ∃ a ts, s.env.turns = .cmd .txh 0b0001 a :: ts := by
  obtain ⟨p, op, a, a', ts, hts, he⟩ := h.turns_eq
  cases he
  exact ⟨a, ts, hts⟩

/-! ### The advance and the two ends of a run (R150, R155) -/

/-- The advance after a symbol ends a run exactly at the last bit. -/
theorem advanceBit_of_idle {i : Nat} (hrun : tx.txState = .run) (hidle : (advanceBit i tx).txState = .idle) :
    i + 1 = tx.nbits ∧ (advanceBit i tx).txStatus = .done := by
  by_cases hlast : i + 1 = tx.nbits
  · exact ⟨hlast, by rw [advanceBit_last hlast]⟩
  · have hsame : (advanceBit i tx).txState = .run := by rw [advanceBit_inner hlast, hrun]
    rw [hsame] at hidle
    cases hidle

theorem cancelRun_of_run (hrun : tx.txState = .run) : cancelRun tx = tx.endRun .cancelled := if_pos hrun

theorem cancelRun_of_idle (hidle : tx.txState = .idle) : cancelRun tx = tx :=
  if_neg (by rw [hidle]; decide)

/-- A `CANCEL` during a run leaves no run and no BitSequence to run (R25, R155). -/
theorem execCancel_of_run (hrun : s.tx.txState = .run) (h : execCancel s = .next t) :
    t.tx.txState = .idle ∧ t.tx.bitsValid = false := by
  obtain rfl := Host.Outcome.next.inj h
  have hrun' : (cancelActuator s).tx.txState = .run := by
    unfold cancelActuator
    split <;> exact hrun
  have htx : cancelRun (cancelActuator s).tx = (cancelActuator s).tx.endRun .cancelled := cancelRun_of_run hrun'
  rw [State.respond_tx, State.withTx_tx, htx]
  exact ⟨rfl, rfl⟩

/-! ### The start and the end of a run over one transition (R158, R282) -/

/-- A run starts by `TRANSMIT` alone, at bit 0. -/
theorem TxEffect.starts_run (e : TxEffect P s tx cs) (hidle : s.tx.txState = .idle) (hrun : tx.txState = .run) :
    (∃ T G, NextIsCommand s (.transmit T G)) ∧ tx.bitIdx = 0 ∧ s.tx.bitsValid = true ∧ s.tx.actState = .opened := by
  have hne : tx.txState ≠ .idle := by rw [hrun]; decide
  have hne' : s.tx.txState ≠ .run := by rw [hidle]; decide
  cases e with
  | transmit T G turn _ valid opened => exact ⟨⟨T, G, turn⟩, startRun_bitIdx _ _ _, valid, opened⟩
  | unchanged => exact absurd hrun hne'
  | encode _ _ _ => exact absurd hrun hne'
  | initAgain _ _ _ => exact absurd hrun hne'
  | init _ _ _ => exact absurd ((applyInit_txState _ _).symm.trans hrun) hne'
  | cancelClosed _ _ => exact absurd (cancelRun_txState _) hne
  | cancelOpened _ _ => exact absurd (cancelRun_txState _) hne
  | shutdown _ _ _ => exact absurd hrun hne'
  | pulse _ run _ => exact absurd run hne'
  | gap _ run _ => exact absurd run hne'
  | reset _ => cases hrun

/-- A run ends by the `STEP` of its last bit, by `CANCEL`, or by `RST_TX`. -/
theorem TxEffect.ends_run (e : TxEffect P s tx cs) (hrun : s.tx.txState = .run) (hidle : tx.txState = .idle) :
    (NextIsSched s ∧ s.tx.bitIdx + 1 = s.tx.nbits ∧ tx.txStatus = .done ∧ tx.bitIdx = s.tx.nbits) ∨
    (NextIsCommand s .cancel ∧ tx.txStatus = .cancelled ∧ tx.bitIdx = s.tx.bitIdx) ∨ NextIsRstTx s := by
  have hne : s.tx.txState ≠ .idle := by rw [hrun]; decide
  cases e with
  | pulse turn _ _ =>
    obtain ⟨hlast, hdone⟩ := advanceBit_of_idle ((applyPulse_txState _ _).trans hrun) hidle
    rw [applyPulse_nbits] at hlast
    exact .inl ⟨turn, hlast, hdone, (advanceBit_bitIdx _ _).trans hlast⟩
  | gap turn _ _ =>
    obtain ⟨hlast, hdone⟩ := advanceBit_of_idle (tx := applyGap s.tx) hrun hidle
    exact .inl ⟨turn, hlast, hdone, (advanceBit_bitIdx _ _).trans hlast⟩
  | cancelClosed turn _ =>
    rw [cancelRun_of_run hrun]
    exact .inr (.inl ⟨turn, rfl, rfl⟩)
  | cancelOpened turn _ =>
    rw [cancelRun_of_run (tx := s.shutdownActuator.tx) hrun]
    exact .inr (.inl ⟨turn, rfl, rfl⟩)
  | reset turn => exact .inr (.inr turn)
  | unchanged => exact absurd hidle hne
  | encode _ _ idle => exact absurd idle hne
  | initAgain _ idle _ => exact absurd idle hne
  | init _ idle _ => exact absurd idle hne
  | transmit _ _ _ idle _ _ => exact absurd idle hne
  | shutdown _ idle _ => exact absurd idle hne

/-! ### Nothing resumes (R25, R156) -/

/-- `tx` is out of a run and has no BitSequence to run. -/
structure NothingToRun (tx : TxState) : Prop where
  idle : tx.txState = .idle
  invalid : tx.bitsValid = false

/-- From `tx₀` there still is nothing to run in `tx`: no bit was scheduled, and what is new in the event stream is an
opening or a shutdown. -/
structure StaysWithoutRun (tx₀ tx : TxState) : Prop where
  nothing : NothingToRun tx
  bitIdx : tx.bitIdx = tx₀.bitIdx
  txEv : ∃ evs, tx.txEv = tx₀.txEv ++ evs ∧ ∀ ev ∈ evs, ev = .shutdown ∨ ∃ r, ev = .init r

theorem StaysWithoutRun.of_same_events (h : NothingToRun tx) {tx₀ : TxState} (hidx : tx.bitIdx = tx₀.bitIdx)
    (hev : tx.txEv = tx₀.txEv) : StaysWithoutRun tx₀ tx :=
  ⟨h, hidx, [], by rw [hev, List.append_nil], nofun⟩

theorem StaysWithoutRun.of_one_event (h : NothingToRun tx) {tx₀ : TxState} {ev : Event} (hidx : tx.bitIdx = tx₀.bitIdx)
    (hev : tx.txEv = tx₀.txEv ++ [ev]) (hkind : ev = .shutdown ∨ ∃ r, ev = .init r) : StaysWithoutRun tx₀ tx :=
  ⟨h, hidx, [ev], hev, by simpa using hkind⟩

/-- With nothing to run, a transition other than `ENCODE` and `RST_TX` leaves it so. -/
theorem TxEffect.staysWithoutRun (e : TxEffect P s tx cs) (h : NothingToRun s.tx)
    (hencode : ∀ payload, ¬NextIsCommand s (.encode payload)) :
    StaysWithoutRun s.tx tx ∨ NextIsRstTx s ∧ tx = TxState.reset := by
  have hrun : s.tx.txState ≠ .run := by rw [h.idle]; decide
  have hshutdown : NothingToRun s.shutdownActuator.tx := ⟨h.idle, h.invalid⟩
  cases e with
  | unchanged => exact .inl (.of_same_events h rfl rfl)
  | encode payload turn _ => exact absurd turn (hencode payload)
  | initAgain _ _ _ =>
    have hnothing : NothingToRun (takeException (.fatal .alreadyInitialized) s.tx) := ⟨h.idle, h.invalid⟩
    exact .inl (.of_same_events hnothing rfl rfl)
  | init _ _ _ =>
    have hnothing : NothingToRun (applyInit s.env.nextInit s.tx) :=
      ⟨(applyInit_txState _ _).trans h.idle, (applyInit_bitsValid _ _).trans h.invalid⟩
    exact .inl (.of_one_event hnothing (applyInit_bitIdx _ _) (applyInit_txEv _ _) (.inr ⟨_, rfl⟩))
  | transmit _ _ _ _ valid _ =>
    rw [h.invalid] at valid
    cases valid
  | cancelClosed _ _ =>
    rw [cancelRun_of_idle h.idle]
    exact .inl (.of_same_events h rfl rfl)
  | cancelOpened _ _ =>
    rw [cancelRun_of_idle (tx := s.shutdownActuator.tx) h.idle]
    exact .inl (.of_one_event hshutdown rfl rfl (.inl rfl))
  | shutdown _ _ _ => exact .inl (.of_one_event hshutdown rfl rfl (.inl rfl))
  | pulse _ run _ => exact absurd run hrun
  | gap _ run _ => exact absurd run hrun
  | reset turn => exact .inr ⟨turn, rfl⟩

end

end Sys2Proof.Machine

namespace Sys2Proof.Proofs

open Sys2Proof.Machine

/-- Settles O25, from the cases of a step. -/
theorem runStartsAndEndsOnlySo : Obligations.RunStartsAndEndsOnlySo := by
  unfold Obligations.RunStartsAndEndsOnlySo
  intro s t h
  obtain ⟨cs, e, -⟩ := step_hasTxEffect h
  refine ⟨fun hidle hrun => ?_, fun hrun hidle => ?_⟩
  · obtain ⟨⟨T, G, turn⟩, hstart⟩ := e.starts_run hidle hrun
    exact ⟨turn.turns_of_transmit, hstart⟩
  · obtain hlast | ⟨turn, hcancelled⟩ | hrst := e.ends_run hrun hidle
    · exact .inl hlast
    · exact .inr (.inl ⟨turn.turns_of_cancel, hcancelled⟩)
    · exact .inr (.inr hrst)

/-- Settles O28: `CANCEL` leaves nothing to run, and so does each case of a step that is no `ENCODE`. -/
theorem noRunWithoutNewEncode : Obligations.NoRunWithoutNewEncode := by
  unfold Obligations.NoRunWithoutNewEncode
  refine ⟨fun s t hrun h => execCancel_of_run hrun h, fun s t h hidle hinvalid hencode => ?_⟩
  obtain ⟨cs, e, -⟩ := step_hasTxEffect h
  have hno (payload : List Byte) : ¬NextIsCommand s (.encode payload) := fun turn => by
    obtain ⟨a, ts, hts⟩ := turn.turns_of_encode
    exact hencode a ts hts
  obtain hstays | ⟨⟨ts, hts⟩, hreset⟩ := e.staysWithoutRun ⟨hidle, hinvalid⟩ hno
  · refine ⟨hstays.nothing.idle, hstays.nothing.invalid, .inl hstays.bitIdx, fun _ => hstays.txEv, fun ts hts => ?_⟩
    obtain rfl := Host.Outcome.next.inj ((step_of_rstTx hts).symm.trans h)
    rfl
  · rw [hreset]
    exact ⟨rfl, rfl, .inr rfl, fun hrst => absurd hts (hrst ts), fun _ _ => rfl⟩

end Sys2Proof.Proofs

/-! The operations of the pulse-scheduler one by one (R141 to R157): what each answers in each state of `TX_STATE`,
`ACT_STATE` and `BITS_VALID`, and every element it leaves. -/

namespace Sys2Proof.Machine

section
variable {s : State} {T G : Nat}

/-! ### A command refused during a run, or for the state of the Actuator (R141, R143, R157) -/

theorem exec_actInit_of_run (hrun : s.tx.txState = .run) :
    exec .actInit s = .next (s.respond .txh (.plain .busy)) := if_pos hrun

theorem exec_transmit_of_run (hrun : s.tx.txState = .run) :
    exec (.transmit T G) s = .next (s.respond .txh (.plain .busy)) := if_pos hrun

theorem exec_actShutdown_of_run (hrun : s.tx.txState = .run) :
    exec .actShutdown s = .next (s.respond .txh (.plain .busy)) := if_pos hrun

theorem exec_transmit_of_notReady (hidle : s.tx.txState = .idle)
    (h : s.tx.bitsValid = false ∨ s.tx.actState = .closed) :
    exec (.transmit T G) s = .next (s.respond .txh (.plain .state)) := by
  change execTransmit T G s = _
  obtain hinvalid | hclosed := h
  · simp [execTransmit, hidle, hinvalid]
  · simp [execTransmit, hidle, hclosed]

theorem exec_actShutdown_of_closed (hidle : s.tx.txState = .idle) (hclosed : s.tx.actState = .closed) :
    exec .actShutdown s = .next (s.respond .txh (.plain .state)) := by
  change execActShutdown s = _
  simp [execActShutdown, hidle, hclosed]

/-! ### The Actuator opened and shut down (R141, R155, R157) -/

theorem exec_actInit_of_opened (hidle : s.tx.txState = .idle) (hopen : s.tx.actState = .opened) :
    exec .actInit s = .next ((s.withTx (takeException (.fatal .alreadyInitialized) s.tx)).respond .txh
      ⟨.deverr, .alreadyInitialized, .none⟩) := by
  change execActInit s = _
  simp [execActInit, hidle, hopen]

/-- A closed Actuator is called, and what it answers is taken in and answered on. -/
theorem exec_actInit_of_closed {r : InitAnswer} (hidle : s.tx.txState = .idle) (hclosed : s.tx.actState = .closed)
    (hr : s.env.nextInit = r) :
    exec .actInit s = .next (State.respond { s with tx := applyInit r s.tx, env := s.env.callInit } .txh
      (initResponse r)) := by
  change execActInit s = _
  simp [execActInit, hidle, hclosed, hr]

theorem exec_actShutdown_of_opened (hidle : s.tx.txState = .idle) (hopen : s.tx.actState = .opened) :
    exec .actShutdown s = .next (s.shutdownActuator.respond .txh (.plain .ok)) := by
  change execActShutdown s = _
  simp [execActShutdown, hidle, hopen]

theorem exec_cancel_of_opened (hopen : s.tx.actState = .opened) :
    exec .cancel s =
      .next ((s.shutdownActuator.withTx (cancelRun s.shutdownActuator.tx)).respond .can (.plain .ok)) := by
  change execCancel s = _
  rw [execCancel, cancelActuator_of_opened hopen, answer_eq]

theorem exec_cancel_of_closed (hclosed : s.tx.actState = .closed) :
    exec .cancel s = .next ((s.withTx (cancelRun s.tx)).respond .can (.plain .ok)) := by
  change execCancel s = _
  rw [execCancel, cancelActuator_of_closed hclosed, answer_eq]

/-! ### The symbols (R151, R152) -/

theorem exec_pulse_of_answer {r : PulseAnswer} (hr : s.env.nextPulse = r) :
    exec .pulse s = .next { s with tx := applyPulse r s.tx, env := s.env.callPulse s.tx.actHandle s.tx.txT } := by
  subst hr
  rfl

theorem exec_gap (s : State) : exec .gap s = .next (s.withTx (applyGap s.tx)) := rfl

/-! ### The scheduler while `IDLE` (R150, R281) -/

theorem schedulerTurn_of_idle (hidle : s.tx.txState = .idle) : schedulerTurn s = .next s :=
  if_neg (by rw [hidle]; decide)

end

end Sys2Proof.Machine

namespace Sys2Proof.Proofs

open Sys2Proof.Machine

/-- Settles O5: the scheduler's turn has no `STEP` to take. -/
theorem idleSchedulerDoesNothing : Obligations.IdleSchedulerDoesNothing := by
  unfold Obligations.IdleSchedulerDoesNothing
  exact fun s hidle hturn => (step_of_nextIsSched hturn).trans (schedulerTurn_of_idle (s := s.withTurns _) hidle)

/-- Settles O17: refused during a run, a second opening, and a call of the device with either answer. -/
theorem actInitOperation : Obligations.ActInitOperation := by
  unfold Obligations.ActInitOperation
  refine ⟨fun a => rfl, rfl, rfl, ?_, ?_, ?_, ?_⟩
  · exact fun s hrun => exec_actInit_of_run hrun
  · exact fun s hidle hopen => exec_actInit_of_opened hidle hopen
  · exact fun s h hidle hclosed hanswer => exec_actInit_of_closed hidle hclosed hanswer
  · exact fun s k hidle hclosed hanswer => exec_actInit_of_closed hidle hclosed hanswer

/-- Settles O19: the refusals, the empty BitSequence and the start of a run. -/
theorem transmitOperation : Obligations.TransmitOperation := by
  unfold Obligations.TransmitOperation
  refine ⟨fun a => rfl, ?_, ?_, ?_, ?_⟩
  · exact fun T G s hrun => exec_transmit_of_run hrun
  · exact fun T G s hidle hrefused => exec_transmit_of_notReady hidle hrefused
  · intro T G s hidle hvalid hopen hempty
    rw [exec_transmit_of_ready T G hidle hvalid hopen, startRun_of_empty hempty]
    rfl
  · intro T G s hidle hvalid hopen hbits
    rw [exec_transmit_of_ready T G hidle hvalid hopen, startRun_of_nonempty hbits]
    rfl

/-- Settles O20: either answer of the Actuator, taken in. -/
theorem pulseOperation : Obligations.PulseOperation := by
  unfold Obligations.PulseOperation
  refine ⟨rfl, rfl, rfl, ?_, ?_⟩
  · intro s hanswer
    rw [exec_pulse_of_answer hanswer, applyPulse_ok]
    rfl
  · intro s k hanswer
    rw [exec_pulse_of_answer hanswer, applyPulse_err]
    rfl

/-- Settles O21. -/
theorem gapOperation : Obligations.GapOperation := by
  unfold Obligations.GapOperation
  refine ⟨rfl, fun s => ?_⟩
  rw [exec_gap, applyGap_eq]
  rfl

/-- Settles O22: the teardown by `ACT_STATE`, the end of the run by `TX_STATE`. -/
theorem cancelOperation : Obligations.CancelOperation := by
  unfold Obligations.CancelOperation
  refine ⟨fun a => rfl, ?_, ?_, ?_, ?_⟩
  · intro s hopen hrun
    rw [exec_cancel_of_opened hopen, cancelRun_of_run (tx := s.shutdownActuator.tx) hrun]
    rfl
  · intro s hopen hidle
    rw [exec_cancel_of_opened hopen, cancelRun_of_idle (tx := s.shutdownActuator.tx) hidle]
    rfl
  · intro s hclosed hrun
    rw [exec_cancel_of_closed hclosed, cancelRun_of_run hrun]
    rfl
  · intro s hclosed hidle
    rw [exec_cancel_of_closed hclosed, cancelRun_of_idle hidle]
    rfl

/-- Settles O23: the two refusals and the teardown. -/
theorem actShutdownOperation : Obligations.ActShutdownOperation := by
  unfold Obligations.ActShutdownOperation
  refine ⟨fun a => rfl, ?_, ?_, ?_⟩
  · exact fun s hrun => exec_actShutdown_of_run hrun
  · exact fun s hidle hclosed => exec_actShutdown_of_closed hidle hclosed
  · exact fun s hidle hopen => exec_actShutdown_of_opened hidle hopen

end Sys2Proof.Proofs

/-! The six ring operations one by one (R181 to R189): what each answers for each state of `RB_STATE`, `RB_DONE` and the
slot at its cursor, and every element it leaves. -/

namespace Sys2Proof.Machine

/-! ### The outcomes of the ring operations, case by case -/

section
variable {β : Type} {rx : RxStateOf β} {c : Slot β} {d : β} {k : Nat}

theorem ringInit_of_built (hbuilt : rx.rbState = .built) : ringInit k rx = .refuse .state := if_pos hbuilt

theorem ringInit_of_small (hunbuilt : rx.rbState = .unbuilt) (hk : k < 2) : ringInit k rx = .refuse .param := by
  simp [ringInit, hunbuilt, nodeCountTooSmall, hk]

theorem ringInit_of_two_le (hunbuilt : rx.rbState = .unbuilt) (hk : 2 ≤ k) :
    ringInit k rx = .ok .none (buildRing k) := by
  simp [ringInit, hunbuilt, nodeCountTooSmall, Nat.not_lt.mpr hk]

theorem ringWrite_of_closed (h : rx.rbState = .unbuilt ∨ rx.rbDone = true) : ringWrite d rx = .refuse .state := by
  obtain hunbuilt | hdone := h
  · exact if_pos hunbuilt
  · simp [ringWrite, hdone]

theorem ringWrite_of_filled (hbuilt : rx.rbState = .built) (hopen : rx.rbDone = false)
    (hc : slotRead rx rx.rbWr = some c) (hfilled : c.filled = true) : ringWrite d rx = .refuse .wait := by
  simp [ringWrite, hbuilt, hopen, hc, hfilled]

theorem ringWrite_of_empty (hbuilt : rx.rbState = .built) (hopen : rx.rbDone = false)
    (hc : slotRead rx rx.rbWr = some c) (hempty : c.filled = false) :
    ringWrite d rx = .ok .none (fillSlot d rx) := by
  simp [ringWrite, hbuilt, hopen, hc, hempty]

theorem ringRead_of_unbuilt (hunbuilt : rx.rbState = .unbuilt) : ringRead rx = .refuse .state := if_pos hunbuilt

theorem ringRead_of_empty (hbuilt : rx.rbState = .built) (hc : slotRead rx rx.rbRd = some c)
    (hempty : c.filled = false) : ringRead rx = .refuse .wait := by
  simp [ringRead, hbuilt, hc, hempty]

theorem ringRead_of_filled (hbuilt : rx.rbState = .built) (hc : slotRead rx rx.rbRd = some c)
    (hfilled : c.filled = true) (hd : c.data = some d) : ringRead rx = .ok (.block d) (drainSlot d rx) := by
  simp [ringRead, hbuilt, hc, hfilled, hd]

theorem ringSetDone_of_unbuilt (hunbuilt : rx.rbState = .unbuilt) : ringSetDone rx = .refuse .state := if_pos hunbuilt

theorem ringSetDone_of_built (hbuilt : rx.rbState = .built) :
    ringSetDone rx = .ok .none { rx with rbDone := true } := by
  simp [ringSetDone, hbuilt]

theorem ringGetDone_of_unbuilt (hunbuilt : rx.rbState = .unbuilt) : ringGetDone rx = .refuse .state := if_pos hunbuilt

theorem ringFree_of_unbuilt (hunbuilt : rx.rbState = .unbuilt) : ringFree rx = .refuse .state := if_pos hunbuilt

theorem ringFree_of_built (hbuilt : rx.rbState = .built) : ringFree rx = .ok .none RxStateOf.reset := by
  simp [ringFree, hbuilt]

end

/-! ### The operations of the machine from the ring's (R96) -/

section
variable {s : State} {d : Block} {v : RingValue Block} {rx : RxState} {st : Status}

theorem exec_rbWrite_of_refuse (h : ringWrite d s.rx = .refuse st) :
    exec (.rbWrite d) s = .next (s.respond .prd (.plain st)) := congrArg (answerRing .prd · s) h

theorem exec_rbWrite_of_ok (h : ringWrite d s.rx = .ok v rx) :
    exec (.rbWrite d) s = .next ((s.withRx rx).respond .prd ⟨.ok, .none, v.response⟩) :=
  congrArg (answerRing .prd · s) h

theorem exec_rbRead_of_refuse (h : ringRead s.rx = .refuse st) :
    exec .rbRead s = .next (s.respond .cns (.plain st)) := congrArg (answerRing .cns · s) h

theorem exec_rbRead_of_ok (h : ringRead s.rx = .ok v rx) :
    exec .rbRead s = .next ((s.withRx rx).respond .cns ⟨.ok, .none, v.response⟩) :=
  congrArg (answerRing .cns · s) h

end

end Sys2Proof.Machine

namespace Sys2Proof.Proofs

open Sys2Proof.Machine

/-- Settles O33: the two refusals, and a fresh ring. -/
theorem rbInitOperation : Obligations.RbInitOperation := by
  unfold Obligations.RbInitOperation
  refine ⟨fun a => rfl, ?_, ?_, ?_⟩
  · exact fun k s hbuilt => congrArg (answerRing .rxh · s) (ringInit_of_built hbuilt)
  · exact fun k s hunbuilt hk => congrArg (answerRing .rxh · s) (ringInit_of_small hunbuilt hk)
  · exact fun k s hunbuilt hk => congrArg (answerRing .rxh · s) (ringInit_of_two_le hunbuilt hk)

/-- Settles O34: refused while there is no open ring, else by the slot at `RB_WR`. -/
theorem rbWriteOperation : Obligations.RbWriteOperation := by
  unfold Obligations.RbWriteOperation
  refine ⟨fun a => rfl, ?_, ?_, ?_⟩
  · exact fun d s hclosed => exec_rbWrite_of_refuse (ringWrite_of_closed hclosed)
  · exact fun d s c hbuilt hopen hc hfilled => exec_rbWrite_of_refuse (ringWrite_of_filled hbuilt hopen hc hfilled)
  · exact fun d s c hbuilt hopen hc hempty => exec_rbWrite_of_ok (ringWrite_of_empty hbuilt hopen hc hempty)

/-- Settles O35: refused while there is no ring, else by the slot at `RB_RD`. -/
theorem rbReadOperation : Obligations.RbReadOperation := by
  unfold Obligations.RbReadOperation
  refine ⟨fun a => rfl, ?_, ?_, ?_⟩
  · exact fun s hunbuilt => exec_rbRead_of_refuse (ringRead_of_unbuilt hunbuilt)
  · exact fun s c hbuilt hc hempty => exec_rbRead_of_refuse (ringRead_of_empty hbuilt hc hempty)
  · exact fun s d hbuilt hc => exec_rbRead_of_ok (ringRead_of_filled hbuilt hc rfl rfl)

/-- Settles O36, by `RB_STATE`. -/
theorem rbSetDoneOperation : Obligations.RbSetDoneOperation := by
  unfold Obligations.RbSetDoneOperation
  refine ⟨fun a => rfl, ?_, ?_⟩
  · exact fun s hunbuilt => congrArg (answerRing .prd · s) (ringSetDone_of_unbuilt hunbuilt)
  · exact fun s hbuilt => congrArg (answerRing .prd · s) (ringSetDone_of_built hbuilt)

/-- Settles O37, by `RB_STATE`. -/
theorem rbGetDoneOperation : Obligations.RbGetDoneOperation := by
  unfold Obligations.RbGetDoneOperation
  refine ⟨fun a => rfl, ?_, ?_⟩
  · exact fun s hunbuilt => congrArg (answerRing .cns · s) (ringGetDone_of_unbuilt hunbuilt)
  · exact fun s hbuilt => congrArg (answerRing .cns · s) (ringGetDone_of_built hbuilt)

/-- Settles O38, by `RB_STATE`. -/
theorem rbFreeOperation : Obligations.RbFreeOperation := by
  unfold Obligations.RbFreeOperation
  refine ⟨fun a => rfl, ?_, ?_⟩
  · exact fun s hunbuilt => congrArg (answerRing .rxh · s) (ringFree_of_unbuilt hunbuilt)
  · exact fun s hbuilt => congrArg (answerRing .rxh · s) (ringFree_of_built hbuilt)

end Sys2Proof.Proofs

/-! The ring by its queue (R184, R186, R201, R202): full and empty as the length of the queue, and what the two ends
then answer. -/

namespace Sys2Proof.Machine

/-! ### The slots at the cursors (R184, R186) -/

section
variable {rx : RxState} {q : List Block}

theorem RingQueue.wr_eq_rd_of_nil (h : RingQueue rx []) : rx.rbWr = rx.rbRd := by
  rw [h.wr_eq_rd_add, List.length_nil, Nat.add_zero, Nat.mod_eq_of_lt h.rbRd_lt]

/-- The cursors agree also in a full ring: the write cursor is once round the cycle. -/
theorem RingQueue.wr_eq_rd_of_full (h : RingQueue rx q) (hfull : q.length = rx.rbK) : rx.rbWr = rx.rbRd := by
  rw [h.wr_eq_rd_add, hfull, Nat.add_mod_right, Nat.mod_eq_of_lt h.rbRd_lt]

theorem RingQueue.slotRead_rbWr_of_room (h : RingQueue rx q) (hroom : q.length < rx.rbK) :
    slotRead rx rx.rbWr = some .empty := by
  rw [h.wr_eq_rd_add, h.cell_eq _ hroom, queueCell_of_length_le q le_rfl]

/-- A queue of the length of the cycle has a first Block, and both cursors stand at it. -/
theorem RingQueue.slotRead_rbWr_of_full (h : RingQueue rx q) (hfull : q.length = rx.rbK) :
    ∃ c, slotRead rx rx.rbWr = some c ∧ c.filled = true :=
  ⟨_, (h.wr_eq_rd_of_full hfull).symm ▸ h.slotRead_rbRd, (queueCell_filled q).mpr (hfull ▸ h.rbK_pos)⟩

/-- The queue is what was written from the first Block not yet read on (R76). -/
theorem RingQueue.wseq_getElem? (h : RingQueue rx q) (j : Nat) : rx.rbWseq[rx.rbRseq.length + j]? = q[j]? := by
  rw [h.wseq_eq, List.getElem?_append_right (Nat.le_add_right _ _), Nat.add_sub_cancel_left]

/-! ### The ring with nothing pending (R201) -/

theorem RingQueue.eq_nil_of_length_eq (h : RingQueue rx q) (hlen : rx.rbRseq.length = rx.rbWseq.length) : q = [] := by
  rw [h.wseq_eq, List.length_append] at hlen
  exact List.eq_nil_of_length_eq_zero (by omega)

/-- A cycle of EMPTY slots is the same from wherever it is read. -/
theorem RingQueue.slots_of_nil (h : RingQueue rx []) : rx.slots = List.replicate rx.rbK .empty := by
  have hcycle := (cycle_eq_iff h.slots_length h.length_le).mpr h.cell_eq
  rw [List.map_nil, List.nil_append, List.length_nil, Nat.sub_zero, List.rotate_eq_iff, List.rotate_replicate] at hcycle
  exact hcycle

/-- The elements of a fresh ring are stated; all that is free is the cursor, the flag and the histories. -/
theorem eq_buildRing_of_slots (hbuilt : rx.rbState = .built) (hcursors : rx.rbWr = rx.rbRd)
    (hslots : rx.slots = List.replicate rx.rbK .empty) :
    rx = { buildRing rx.rbK with
      rbWr := rx.rbRd, rbRd := rx.rbRd, rbDone := rx.rbDone, rbWseq := rx.rbWseq, rbRseq := rx.rbRseq } := by
  cases rx
  simp_all [buildRing]

end

/-! ### What a read answers for the queue (R186) -/

section
variable {s : State} {q : List Block} {d : Block}

theorem exec_rbRead_of_nil (h : RingQueue s.rx []) (hbuilt : s.rx.rbState = .built) :
    exec .rbRead s = .next (s.respond .cns (.plain .wait)) := exec_rbRead_of_refuse (h.ringRead_of_nil hbuilt)

/-- A read with a Block pending answers the head of the queue and leaves the rest of it. -/
theorem exec_rbRead_takes_head (h : RingQueue s.rx (d :: q)) (hbuilt : s.rx.rbState = .built) :
    ∃ t, exec .rbRead s = .next t ∧ RingQueue t.rx q ∧ t.rx.rbState = .built ∧
      t.rx.rbRseq = s.rx.rbRseq ++ [d] ∧ t.env.responses = s.env.responses ++ [(.cns, ⟨.ok, .none, .block d⟩)] :=
  ⟨_, exec_rbRead_of_ok (h.ringRead_of_cons hbuilt), h.after_drainSlot, hbuilt, rfl, rfl⟩

end

end Sys2Proof.Machine

namespace Sys2Proof.Proofs

open Sys2Proof.Machine

/-- Settles O40: the ring holds a queue of `occ` Blocks, so the slot at `RB_WR` is its head or past its end. -/
theorem fullRingMakesWritesWait : Obligations.FullRingMakesWritesWait := by
  unfold Obligations.FullRingMakesWritesWait
  intro s d hring hbuilt hopen
  obtain ⟨q, hq⟩ := hring.exists_ringQueue
  rw [hq.occ_eq]
  constructor
  · intro hfull
    obtain ⟨c, hc, hfilled⟩ := hq.slotRead_rbWr_of_full hfull
    have hmarker := markerAt_of_slotRead hc
    rw [hfilled] at hmarker
    exact ⟨hq.wr_eq_rd_of_full hfull, hmarker, exec_rbWrite_of_refuse (ringWrite_of_filled hbuilt hopen hc hfilled)⟩
  · intro hroom
    have hc := hq.slotRead_rbWr_of_room hroom
    have hwritten := hq.after_fillSlot d hc rfl
    exact ⟨markerAt_of_slotRead hc, _, exec_rbWrite_of_ok (ringWrite_of_empty hbuilt hopen hc rfl), rfl,
      hwritten.occ_eq.trans List.length_append, rfl⟩

/-- Settles O41, by whether the queue the ring holds has a head. -/
theorem emptyRingMakesReadsWait : Obligations.EmptyRingMakesReadsWait := by
  unfold Obligations.EmptyRingMakesReadsWait
  intro s hring hbuilt
  obtain ⟨q, hq⟩ := hring.exists_ringQueue
  have hmarker := markerAt_of_slotRead hq.slotRead_rbRd
  rw [hq.occ_eq]
  cases q with
  | nil => exact ⟨fun _ => ⟨hq.wr_eq_rd_of_nil, hmarker, exec_rbRead_of_nil hq hbuilt⟩, nofun⟩
  | cons d q =>
    obtain ⟨t, hexec, hrest, -, hrseq, hresponses⟩ := exec_rbRead_takes_head hq hbuilt
    exact ⟨nofun, fun _ => ⟨hmarker, t, d, hexec, hq.wseq_getElem? 0, hresponses, congrArg (· + 1) hrest.occ_eq, hrseq⟩⟩

/-- Settles O44: with equally long histories the queue is empty. -/
theorem emptiedRingIsFresh : Obligations.EmptiedRingIsFresh := by
  unfold Obligations.EmptiedRingIsFresh
  intro rx hring hbuilt hlen
  obtain ⟨q, hq⟩ := hring.exists_ringQueue
  obtain rfl := hq.eq_nil_of_length_eq hlen
  exact ⟨hq.wr_eq_rd_of_nil, hq.slots_of_nil, rx.rbRd, eq_buildRing_of_slots hbuilt hq.wr_eq_rd_of_nil hq.slots_of_nil⟩

/-- Settles O45: two Blocks fewer read than written, so the queue is of two, and the reads take one after the other. -/
theorem lastTwoItemsAreDrained : Obligations.LastTwoItemsAreDrained := by
  unfold Obligations.LastTwoItemsAreDrained
  intro s M hring hbuilt _ hwritten hM hread
  obtain ⟨q, hq⟩ := hring.exists_ringQueue
  have hlen : s.rx.rbWseq.length = s.rx.rbRseq.length + q.length := by rw [hq.wseq_eq, List.length_append]
  obtain ⟨d₁, d₂, rfl⟩ := List.length_eq_two.mp (show q.length = 2 by omega)
  obtain ⟨t₁, hexec₁, hq₁, hbuilt₁, -, hresponses₁⟩ := exec_rbRead_takes_head hq hbuilt
  obtain ⟨t₂, hexec₂, hq₂, hbuilt₂, -, hresponses₂⟩ := exec_rbRead_takes_head hq₁ hbuilt₁
  refine ⟨t₁, t₂, _, d₁, d₂, hexec₁, hexec₂, exec_rbRead_of_nil hq₂ hbuilt₂, ?_, ?_, ?_, rfl⟩
  · rw [show M - 2 = s.rx.rbRseq.length + 0 by omega, hq.wseq_getElem?]
    rfl
  · rw [show M - 1 = s.rx.rbRseq.length + 1 by omega, hq.wseq_getElem?]
    rfl
  · simp [hresponses₁, hresponses₂, Response.plain]

end Sys2Proof.Proofs

/-! The life of one ring (R190, R203), over the steps that neither build nor tear it down: what such a step can do to
one slot, and that a step answers a Block only by an accepted `RB_READ`. -/

namespace Sys2Proof.Machine

/-! ### The cell at the cursor and the others (R183, R185) -/

section
variable {β : Type} {rx : RxStateOf β} {c : Slot β} {i : Nat} (d : β)

theorem slotRead_fillSlot_same (hc : slotRead rx rx.rbWr = some c) :
    slotRead (fillSlot d rx) rx.rbWr = some (.full d) := slotRead_slotWrite_same _ (slotRead_lt hc)

theorem slotRead_fillSlot_other (hi : rx.rbWr ≠ i) : slotRead (fillSlot d rx) i = slotRead rx i :=
  slotRead_slotWrite_other _ hi

theorem slotRead_drainSlot_same (hc : slotRead rx rx.rbRd = some c) :
    slotRead (drainSlot d rx) rx.rbRd = some .empty := slotRead_slotWrite_same _ (slotRead_lt hc)

theorem slotRead_drainSlot_other (hi : rx.rbRd ≠ i) : slotRead (drainSlot d rx) i = slotRead rx i :=
  slotRead_slotWrite_other _ hi

end

/-! ### Steps that leave the life of the ring alone (R291) -/

section
variable {s t : State} {i : Instr} {rx : RxState}

theorem NextIsCommand.turns_of_rbWrite {d : Block} (h : NextIsCommand s (.rbWrite d)) :
    ∃ a ts, s.env.turns = .cmd .prd 0b1001 a :: ts ∧ a.d = d := by
  obtain ⟨u, ts, hts, p, op, a, rfl, hd⟩ := h
  obtain ⟨a', he⟩ := encode_of_decode hd
  cases he
  exact ⟨a, ts, hts, Instr.rbWrite.inj (Decoded.ok.inj hd)⟩

theorem NextIsCommand.turns_of_rbRead (h : NextIsCommand s .rbRead) :
    ∃ a ts, s.env.turns = .cmd .cns 0b1010 a :: ts := by
  obtain ⟨p, op, a, a', ts, hts, he⟩ := h.turns_eq
  cases he
  exact ⟨a, ts, hts⟩

variable (hkeeps : ∀ u us, s.env.turns = u :: us → keepsRing u = true)
include hkeeps

theorem NextIsCommand.port_ne_rxh (h : NextIsCommand s i) : i.port ≠ some .rxh := by
  obtain ⟨u, ts, hts, p, op, a, rfl, hd⟩ := h
  have hkeep := hkeeps _ _ hts
  rw [port_of_decode hd]
  rintro ⟨⟩
  cases hkeep

theorem not_reset_of_keepsRing : ¬(NextIsCommand s .rbFree ∧ s.rx.rbState = .built ∨ NextIsRstRx s) := by
  rintro (⟨turn, -⟩ | ⟨ts, hts⟩)
  · exact turn.port_ne_rxh hkeeps rfl
  · cases hkeeps _ _ hts

/-- The ring stays, with its slots (R39, R40). -/
theorem RxEffect.keeps_size (e : RxEffect s rx) :
    rx.rbState = s.rx.rbState ∧ rx.rbK = s.rx.rbK ∧ rx.slots.length = s.rx.slots.length := by
  cases e with
  | unchanged => exact ⟨rfl, rfl, rfl⟩
  | build k turn => exact absurd rfl (turn.port_ne_rxh hkeeps)
  | fill d => exact ⟨rfl, rfl, List.length_set⟩
  | drain d => exact ⟨rfl, rfl, List.length_set⟩
  | setDone => exact ⟨rfl, rfl, rfl⟩
  | reset turn => exact absurd turn (not_reset_of_keepsRing hkeeps)

end

/-! ### One slot over one transition (R190) -/

/-- From `s`, one transition of the life of a ring leaves RX elements `rx` with the slot `i` as named. -/
inductive SlotEffect (s : State) (rx : RxState) (i : Nat) : Prop where
  /-- not written -/
  | kept (same : slotRead rx i = slotRead s.rx i)
  /-- EMPTY to FILLED, by an accepted `RB_WRITE` (R183) -/
  | filled (a : Operands) (ts : List Turn) (turns : s.env.turns = .cmd .prd 0b1001 a :: ts) (at_wr : i = s.rx.rbWr)
      (before : markerAt s.rx i = some false) (after : slotRead rx i = some (.full a.d))
  /-- FILLED to EMPTY, by an accepted `RB_READ` (R185) -/
  | emptied (a : Operands) (ts : List Turn) (d : Block) (turns : s.env.turns = .cmd .cns 0b1010 a :: ts)
      (built : s.rx.rbState = .built) (at_rd : i = s.rx.rbRd) (before : slotRead s.rx i = some (.full d))
      (after : slotRead rx i = some .empty)

theorem Slot.eq_full {β : Type} {c : Slot β} {d : β} (hfilled : c.filled = true) (hd : c.data = some d) :
    c = .full d := by
  cases c
  simp_all [Slot.full]

section
variable {s t : State} {rx rx' : RxState} {i : Nat} {d : Block}

theorem markerAt_congr (h : slotRead rx i = slotRead rx' i) : markerAt rx i = markerAt rx' i :=
  congrArg (Option.map Slot.filled) h

/-- A write and a read touch the one slot at their cursor. -/
theorem RxEffect.slotEffect (e : RxEffect s rx) (hkeeps : ∀ u us, s.env.turns = u :: us → keepsRing u = true)
    (i : Nat) : SlotEffect s rx i := by
  cases e with
  | unchanged => exact .kept rfl
  | build k turn => exact absurd rfl (turn.port_ne_rxh hkeeps)
  | fill d c turn _ _ cell empty =>
    by_cases hi : s.rx.rbWr = i
    · obtain ⟨a, ts, hts, rfl⟩ := turn.turns_of_rbWrite
      have hmarker := markerAt_of_slotRead cell
      rw [empty] at hmarker
      exact hi ▸ .filled a ts hts rfl hmarker (slotRead_fillSlot_same a.d cell)
    · exact .kept (slotRead_fillSlot_other d hi)
  | drain d c turn built cell filled data =>
    by_cases hi : s.rx.rbRd = i
    · obtain ⟨a, ts, hts⟩ := turn.turns_of_rbRead
      obtain rfl := Slot.eq_full filled data
      exact hi ▸ .emptied a ts d hts built rfl cell (slotRead_drainSlot_same d cell)
    · exact .kept (slotRead_drainSlot_other d hi)
  | setDone => exact .kept rfl
  | reset turn => exact absurd turn (not_reset_of_keepsRing hkeeps)

/-- EMPTY to FILLED (R190). -/
theorem SlotEffect.of_filled (e : SlotEffect s rx i) (hbefore : markerAt s.rx i = some false)
    (hafter : markerAt rx i = some true) :
    i = s.rx.rbWr ∧ ∃ a ts, s.env.turns = .cmd .prd 0b1001 a :: ts ∧ dataAt rx i = some a.d := by
  cases e with
  | kept same =>
    rw [markerAt_congr same, hbefore] at hafter
    cases hafter
  | filled a ts turns at_wr _ after => exact ⟨at_wr, a, ts, turns, dataAt_of_slotRead after⟩
  | emptied a ts d _ _ _ before _ =>
    rw [markerAt_of_slotRead before] at hbefore
    cases hbefore

/-- FILLED to EMPTY (R190); the Block that was there is the one the read finds. -/
theorem SlotEffect.of_emptied (e : SlotEffect s rx i) (hbefore : markerAt s.rx i = some true)
    (hafter : markerAt rx i = some false) :
    i = s.rx.rbRd ∧ dataAt rx i = none ∧ s.rx.rbState = .built ∧
      ∃ a ts d, s.env.turns = .cmd .cns 0b1010 a :: ts ∧ slotRead s.rx i = some (.full d) := by
  cases e with
  | kept same =>
    rw [markerAt_congr same, hbefore] at hafter
    cases hafter
  | filled a ts _ _ before _ =>
    rw [before] at hbefore
    cases hbefore
  | emptied a ts d turns built at_rd before after =>
    exact ⟨at_rd, dataAt_of_slotRead after, built, a, ts, d, turns, before⟩

/-- A slot that is written changes its marker, so no FILLED slot is overwritten (R190). -/
theorem SlotEffect.slotRead_eq (e : SlotEffect s rx i) (hsame : markerAt s.rx i = markerAt rx i) :
    slotRead rx i = slotRead s.rx i := by
  cases e with
  | kept same => exact same
  | filled a ts _ _ before after =>
    rw [before, markerAt_of_slotRead after] at hsame
    cases hsame
  | emptied a ts d _ _ _ before after =>
    rw [markerAt_of_slotRead before, markerAt_of_slotRead after] at hsame
    cases hsame

/-! ### The Blocks a step answers (R185) -/

/-- An `RB_READ` that finds a FILLED slot answers its Block. -/
theorem step_answers_of_full {a : Operands} {ts : List Turn} (h : step s = .next t)
    (hts : s.env.turns = .cmd .cns 0b1010 a :: ts) (hbuilt : s.rx.rbState = .built)
    (hcell : slotRead s.rx s.rx.rbRd = some (.full d)) :
    t.env.responses = s.env.responses ++ [(.cns, ⟨.ok, .none, .block d⟩)] := by
  have hexec : step s = exec .rbRead (s.withTurns ts) := (step_of_cmd hts).trans (commandTurn_of_ok rfl)
  have hread : exec .rbRead (s.withTurns ts) = .next _ :=
    exec_rbRead_of_ok (s := s.withTurns ts) (ringRead_of_filled hbuilt hcell rfl rfl)
  obtain rfl := Host.Outcome.next.inj (hread.symm.trans (hexec.symm.trans h))
  rfl

theorem schedulerTurn_responses (h : schedulerTurn s = .next t) : t.env.responses = s.env.responses := by
  obtain ⟨-, rfl⟩ | ⟨-, hstep⟩ := schedulerTurn_next h
  · rfl
  · obtain ⟨b, -, ⟨-, rfl⟩ | ⟨-, rfl⟩⟩ := schedulerStep_next hstep <;> rfl

/-- A step adds no response if it is the scheduler's turn or a reset; else it is a command of an agent that answers
once, and refused with `ST_ILLEGAL` where its word does not decode. -/
theorem step_responses_cases (h : step s = .next t) :
    t.env.responses = s.env.responses ∨
    (∃ p, t.env.responses = s.env.responses ++ [(p, .plain .illegal)]) ∨
    ∃ p i ts, i.port = some p ∧ exec i (s.withTurns ts) = .next t := by
  obtain ⟨-, hsched⟩ | ⟨p, op, a, ts, -, hcmd⟩ | ⟨ts, -, rfl⟩ | ⟨ts, -, rfl⟩ := step_next h
  · have hsame : t.env.responses = (s.withTurns s.env.turns.tail).env.responses := schedulerTurn_responses hsched
    exact .inl hsame
  · obtain ⟨i, hd, hexec⟩ | ⟨r, -, rfl⟩ := commandTurn_exec hcmd
    · exact .inr (.inr ⟨p, i, ts, port_of_decode hd, hexec⟩)
    · exact .inr (.inl ⟨p, rfl⟩)
  · exact .inl rfl
  · exact .inl rfl

/-- The response of `RB_READ` is a Block only from a FILLED slot, which it clears. -/
theorem execRbRead_of_block (h : execRbRead s = .next t)
    (hr : t.env.responses = s.env.responses ++ [(.cns, ⟨.ok, .none, .block d⟩)]) :
    slotRead s.rx s.rx.rbRd = some (.full d) ∧ t.rx = drainSlot d s.rx := by
  obtain ⟨-, rfl⟩ | ⟨-, c, hc, ⟨-, rfl⟩ | ⟨hfilled, d', hd, rfl⟩⟩ := execRbRead_next h
  · cases List.append_cancel_left hr
  · cases List.append_cancel_left hr
  · cases List.append_cancel_left hr
    exact ⟨Slot.eq_full hfilled hd ▸ hc, rfl⟩

/-- A Block is answered only by an accepted `RB_READ`: by R96 no other command answers one. -/
theorem step_of_block_answered (h : step s = .next t)
    (hr : t.env.responses = s.env.responses ++ [(.cns, ⟨.ok, .none, .block d⟩)]) :
    slotRead s.rx s.rx.rbRd = some (.full d) ∧ t.rx = drainSlot d s.rx := by
  obtain hnone | ⟨p, hillegal⟩ | ⟨p, i, ts, hp, hexec⟩ := step_responses_cases h
  · rw [hnone] at hr
    exact absurd hr (by simp)
  · rw [hillegal] at hr
    cases List.append_cancel_left hr
  · obtain ⟨r, hr', hform⟩ := exec_answersInForm hp hexec
    cases List.append_cancel_left (hr'.symm.trans hr)
    obtain ⟨rfl, -⟩ := hform.block_of_rbRead d rfl
    exact execRbRead_of_block (s := s.withTurns ts) hexec hr

/-! ### A completed ring (R187, R203) -/

/-- Once the flag is set nothing is written; and a read of an empty ring waits. -/
theorem RxEffect.of_done (e : RxEffect s rx) (hkeeps : ∀ u us, s.env.turns = u :: us → keepsRing u = true)
    (hdone : s.rx.rbDone = true) :
    rx.rbDone = true ∧ rx.rbWr = s.rx.rbWr ∧ rx.rbWseq = s.rx.rbWseq ∧
      (RingInv s.rx → occ s.rx = 0 → rx = s.rx) := by
  cases e with
  | unchanged => exact ⟨hdone, rfl, rfl, fun _ _ => rfl⟩
  | build k turn => exact absurd rfl (turn.port_ne_rxh hkeeps)
  | fill d c _ _ notDone =>
    rw [hdone] at notDone
    cases notDone
  | drain d c _ _ cell _ data =>
    refine ⟨hdone, rfl, rfl, fun hring hempty => ?_⟩
    obtain ⟨q, hq⟩ := hring.exists_ringQueue
    obtain ⟨q', rfl⟩ := hq.eq_cons_of_data cell data
    rw [hq.occ_eq] at hempty
    cases hempty
  | setDone => exact ⟨rfl, rfl, rfl, fun _ _ => by rw [← hdone]⟩
  | reset turn => exact absurd turn (not_reset_of_keepsRing hkeeps)

end

end Sys2Proof.Machine

namespace Sys2Proof.Proofs

open Sys2Proof.Machine

/-- Settles O42: a slot is kept, filled or emptied, and a Block answered is one emptied. -/
theorem slotStateMachine : Obligations.SlotStateMachine := by
  unfold Obligations.SlotStateMachine
  intro s t i h hkeeps
  have e := step_rxEffect h
  have hslot := e.slotEffect hkeeps i
  refine ⟨e.keeps_size hkeeps, hslot.of_filled, fun hbefore hafter => ?_, hslot.slotRead_eq, fun d hr => ?_⟩
  · obtain ⟨rfl, hdata, hbuilt, a, ts, d, hts, hcell⟩ := hslot.of_emptied hbefore hafter
    exact ⟨rfl, hdata, a, ts, d, hts, dataAt_of_slotRead hcell, step_answers_of_full h hts hbuilt hcell⟩
  · obtain ⟨hcell, hrx⟩ := step_of_block_answered h hr
    have hcleared := slotRead_drainSlot_same d hcell
    rw [← hrx] at hcleared
    exact ⟨dataAt_of_slotRead hcell, markerAt_of_slotRead hcell, markerAt_of_slotRead hcleared⟩

/-- Settles O46, over each case of a step. -/
theorem completionIsFinal : Obligations.CompletionIsFinal := by
  unfold Obligations.CompletionIsFinal
  intro s t h hkeeps hbuilt hdone
  have e := step_rxEffect h
  obtain ⟨hstate, -, -⟩ := e.keeps_size hkeeps
  exact ⟨hstate.trans hbuilt, e.of_done hkeeps hdone⟩

end Sys2Proof.Proofs

/-! The TX host (R220): its two preparing commands act on different elements, so either order leaves the same; then the
wait of the host for the end of the run is `awaitIdle`, with one look more to read the status. -/

namespace Sys2Proof.Machine

/-! ### One turn of the host (R220) -/

section
variable {s t : State} {i : Instr} {rest : List Instr} {r : Response}

/-- The host that has stopped takes no further turn. -/
theorem hostRun_of_stopped (n : Nat) (e : HostEnd) (s : State) :
    hostRun n (.stopped e) s = some (s, .stopped e) := by
  induction n with
  | zero => rfl
  | succ n ih => exact ih

/-- A command answered `ST_OK`: the host goes on with the next. -/
theorem hostRun_of_ok (h : issue i s = some (t, r)) (hr : r.st = .ok) (n : Nat) :
    hostRun (n + 1) (.issuing (i :: rest)) s = hostRun n (.issuing rest) t := by
  simp [hostRun, hostTurn, h, hostReact, hr]

/-- A command answered otherwise: the host stops with what it was answered. -/
theorem hostRun_of_failed (h : issue i s = some (t, r)) (hr : r.st ≠ .ok) (n : Nat) :
    hostRun (n + 1) (.issuing (i :: rest)) s = some (t, .stopped (.failed i r.st r.ek)) := by
  simp [hostRun, hostTurn, h, hostReact, hr, hostRun_of_stopped]

/-- While the run goes on, a host with no command left waits, as one that waits already does. -/
theorem hostRun_issued_of_run (hrun : s.tx.txState = .run) (n : Nat) :
    hostRun (n + 1) (.issuing []) s = hostRun (n + 1) .waiting s := by
  simp [hostRun, hostTurn, statusOutputs, hrun]

theorem hostRun_waiting_of_idle (hidle : s.tx.txState = .idle) (n : Nat) :
    hostRun (n + 1) .waiting s = some (s, .stopped (.ended s.tx.txStatus)) := by
  simp [hostRun, hostTurn, statusOutputs, hidle, hostRun_of_stopped]

theorem hostRun_waiting_of_run (hrun : s.tx.txState = .run) (h : schedulerTurn s = .next t) (n : Nat) :
    hostRun (n + 1) .waiting s = hostRun n .waiting t := by
  simp [hostRun, hostTurn, statusOutputs, hrun, step_sched_first, h]

end

/-! ### Waiting for the end of the run (R50, R220) -/

section
variable {s t : State} {n : Nat}

/-- One turn of `awaitIdle` that ends in `t`: nothing is left to wait for, or the scheduler took a turn. -/
theorem awaitIdle_cases (h : awaitIdle n s = some t) :
    (s.tx.txState = .idle ∧ t = s) ∨
    ∃ m u, n = m + 1 ∧ s.tx.txState = .run ∧ schedulerTurn s = .next u ∧ awaitIdle m u = some t := by
  cases hs : s.tx.txState with
  | idle =>
    rw [awaitIdle_of_idle n hs] at h
    exact .inl ⟨rfl, (Option.some.inj h).symm⟩
  | run =>
    cases n with
    | zero => simp [awaitIdle, statusOutputs, hs] at h
    | succ m =>
      simp only [awaitIdle, statusOutputs, hs, reduceCtorEq, if_false, step_sched_first] at h
      split at h
      · exact .inr ⟨m, _, rfl, rfl, ‹_›, h⟩
      · cases h
      · cases h

/-- What `awaitIdle` reaches in `n` turns, the host reaches in as many and reads there. -/
theorem hostRun_of_awaitIdle (h : awaitIdle n s = some t) :
    hostRun (n + 1) .waiting s = some (t, .stopped (.ended t.tx.txStatus)) := by
  induction n generalizing s with
  | zero =>
    obtain ⟨hidle, rfl⟩ | ⟨m, u, hm, -⟩ := awaitIdle_cases h
    · exact hostRun_waiting_of_idle hidle 0
    · cases hm
  | succ n ih =>
    obtain ⟨hidle, rfl⟩ | ⟨m, u, hm, hrun, hturn, hrest⟩ := awaitIdle_cases h
    · exact hostRun_waiting_of_idle hidle _
    · cases hm
      exact (hostRun_waiting_of_run hrun hturn _).trans (ih hrest)

@[simp] theorem advanceBit_actHandle (i : Nat) (tx : TxState) : (advanceBit i tx).actHandle = tx.actHandle := by
  unfold advanceBit
  split <;> rfl

/-- A `STEP` passes the handle on and keeps it (R27). -/
theorem schedulerTurn_actHandle (h : schedulerTurn s = .next t) : t.tx.actHandle = s.tx.actHandle := by
  obtain ⟨-, rfl⟩ | ⟨-, hstep⟩ := schedulerTurn_next h
  · rfl
  · obtain ⟨b, -, ⟨-, rfl⟩ | ⟨-, rfl⟩⟩ := schedulerStep_next hstep
    · exact (advanceBit_actHandle _ _).trans (applyPulse_actHandle _ _)
    · exact advanceBit_actHandle _ _

theorem awaitIdle_actHandle (h : awaitIdle n s = some t) : t.tx.actHandle = s.tx.actHandle := by
  induction n generalizing s with
  | zero =>
    obtain ⟨-, rfl⟩ | ⟨m, u, hm, -⟩ := awaitIdle_cases h
    · rfl
    · cases hm
  | succ n ih =>
    obtain ⟨-, rfl⟩ | ⟨m, u, hm, -, hturn, hrest⟩ := awaitIdle_cases h
    · rfl
    · cases hm
      exact (ih hrest).trans (schedulerTurn_actHandle hturn)

end

/-! ### `ENCODE` and `ACT_INIT` in either order (R121, R141, R220) -/

section
variable {s : State} {h : Handle} {k : InitError}

/-- They write different elements. -/
theorem applyInit_storePayload (P : Params) (payload : List Byte) (r : InitAnswer) (tx : TxState) :
    applyInit r (storePayload P payload tx) = storePayload P payload (applyInit r tx) := by
  cases r <;> rfl

theorem issue_encode_of_idle (payload : List Byte) (hidle : s.tx.txState = .idle) :
    ∃ u r, issue (.encode payload) s = some (u, r) ∧ r.st = .ok ∧ u.tx = storePayload Config.params payload s.tx ∧
      u.env.nextInit = s.env.nextInit :=
  ⟨_, _, issue_of_exec rfl (exec_encode_of_idle payload hidle) rfl, rfl, rfl, rfl⟩

theorem issue_actInit_of_closed {r : InitAnswer} (hidle : s.tx.txState = .idle) (hclosed : s.tx.actState = .closed)
    (hr : s.env.nextInit = r) : ∃ u, issue .actInit s = some (u, initResponse r) ∧ u.tx = applyInit r s.tx :=
  ⟨_, issue_of_exec rfl (exec_actInit_of_closed hidle hclosed hr) rfl, rfl⟩

/-- With a handle answered, both commands are accepted, and their order shows in no TX element. -/
theorem hostRun_prepares (encodeFirst : Bool) (payload : List Byte) (T G n : Nat) (hidle : s.tx.txState = .idle)
    (hclosed : s.tx.actState = .closed) (hr : s.env.nextInit = .ok h) :
    ∃ u, hostRun (n + 2) (.issuing (hostScript encodeFirst payload T G)) s = hostRun n (.issuing [.transmit T G]) u ∧
      u.tx = storePayload Config.params payload (applyInit (.ok h) s.tx) := by
  cases encodeFirst with
  | true =>
    obtain ⟨e, r, hencode, hok, he, hanswer⟩ := issue_encode_of_idle payload hidle
    obtain ⟨u, hinit, hu⟩ := issue_actInit_of_closed (he ▸ hidle) (he ▸ hclosed) (hanswer.trans hr)
    exact ⟨u, (hostRun_of_ok hencode hok _).trans (hostRun_of_ok hinit rfl _), by rw [hu, he, applyInit_storePayload]⟩
  | false =>
    obtain ⟨e, hinit, he⟩ := issue_actInit_of_closed hidle hclosed hr
    obtain ⟨u, r, hencode, hok, hu, -⟩ := issue_encode_of_idle (s := e) payload (he ▸ hidle)
    exact ⟨u, (hostRun_of_ok hinit rfl _).trans (hostRun_of_ok hencode hok _), by rw [hu, he]⟩

/-- With an error answered, the host stops there, whatever it has encoded. -/
theorem hostRun_stops_at_actInit (encodeFirst : Bool) (payload : List Byte) (T G n : Nat)
    (hidle : s.tx.txState = .idle) (hclosed : s.tx.actState = .closed) (hr : s.env.nextInit = .err k) :
    ∃ t, hostRun (n + 2) (.issuing (hostScript encodeFirst payload T G)) s =
        some (t, .stopped (.failed .actInit .deverr k.kind)) ∧
      t.tx.txState = .idle ∧ t.tx.txStatus = .aborted ∧ t.tx.txEv = s.tx.txEv ++ [.init (.err k)] := by
  cases encodeFirst with
  | true =>
    obtain ⟨e, r, hencode, hok, he, hanswer⟩ := issue_encode_of_idle payload hidle
    obtain ⟨t, hinit, ht⟩ := issue_actInit_of_closed (he ▸ hidle) (he ▸ hclosed) (hanswer.trans hr)
    rw [he] at ht
    exact ⟨t, (hostRun_of_ok hencode hok _).trans (hostRun_of_failed hinit nofun _), ht ▸ hidle, ht ▸ rfl, ht ▸ rfl⟩
  | false =>
    obtain ⟨t, hinit, ht⟩ := issue_actInit_of_closed hidle hclosed hr
    exact ⟨t, hostRun_of_failed hinit nofun _, ht ▸ hidle, ht ▸ rfl, ht ▸ rfl⟩

/-- From the two commands accepted, the host transmits and reads `DONE` (R143, R144). -/
theorem hostRun_transmits {tx : TxState} (payload : List Byte) (T G : Nat) (hinv : TxInv Config.params tx)
    (hidle : tx.txState = .idle) (hopen : tx.actState = .opened)
    (hs : s.tx = storePayload Config.params payload tx) :
    ∃ t, hostRun (15 + 8 * payload.length) (.issuing [.transmit T G]) s = some (t, .stopped (.ended .done)) ∧
      endedComplete t.tx = true ∧ t.tx.actHandle = tx.actHandle ∧ t.tx.bitIdx = 13 + 8 * payload.length ∧
      t.tx.txTime = ones (encodePayload Config.preamble payload) * T +
        zeros (encodePayload Config.preamble payload) * G := by
  have hready := exec_transmit_of_ready (s := s) T G (hs ▸ hidle) (hs ▸ rfl) (hs ▸ hopen)
  have htransmit := hostRun_of_ok (rest := []) (issue_of_exec rfl hready rfl) rfl (13 + 8 * payload.length + 1)
  generalize hu : State.respond (s.withTx (startRun T G s.tx)) _ _ = u at htransmit
  have hutx : u.tx = startRun T G s.tx := by rw [← hu]; rfl
  have hstored : TxInv Config.params s.tx := hs ▸ (hinv.static.after_storePayload payload).txInv_of_idle hidle
  have hlength : s.tx.nbits = 12 + 8 * payload.length + 1 := by
    rw [hs]
    change 13 + 8 * payload.length = _
    omega
  obtain ⟨t, hawait, hended, hidx, htime, -⟩ :=
    awaitIdle_of_startRun hstored (hs ▸ hidle) (hs ▸ rfl) (hs ▸ hopen) hlength hutx
  obtain ⟨-, hdone⟩ := endedComplete_iff.mp hended
  have hrun : u.tx.txState = .run := by rw [hutx, startRun_of_nonempty (by omega)]
  have hhandle : u.tx.actHandle = tx.actHandle := by rw [hutx, startRun_of_nonempty (by omega), hs]; rfl
  refine ⟨t, ?_, hended, (awaitIdle_actHandle hawait).trans hhandle, by omega, ?_⟩
  · rw [show 15 + 8 * payload.length = 13 + 8 * payload.length + 1 + 1 by omega, htransmit, hostRun_issued_of_run hrun,
      show 13 + 8 * payload.length = 12 + 8 * payload.length + 1 by omega, hostRun_of_awaitIdle hawait, hdone]
  · rw [htime, hs]
    rfl

theorem next_unique {o : Host.Outcome State Fault Refusal} {t t' : State} (h : o = .next t) (h' : o = .next t') :
    t = t' :=
  Host.Outcome.next.inj (h.symm.trans h')

/-- In any state, accepted or refused, the two commands commute on the TX elements, the calls and the draws. -/
theorem encode_actInit_comm {payload : List Byte} {u t u' t' : State} (hu : exec (.encode payload) s = .next u)
    (ht : exec .actInit u = .next t) (hu' : exec .actInit s = .next u') (ht' : exec (.encode payload) u' = .next t') :
    t.tx = t'.tx ∧ t.env.actCalls = t'.env.actCalls ∧ t.env.draws = t'.env.draws := by
  cases hs : s.tx.txState with
  | run =>
    obtain rfl := next_unique hu (execEncodeWith_of_run Config.params payload hs)
    obtain rfl := next_unique ht (exec_actInit_of_run hs)
    obtain rfl := next_unique hu' (exec_actInit_of_run hs)
    obtain rfl := next_unique ht' (execEncodeWith_of_run Config.params payload hs)
    exact ⟨rfl, rfl, rfl⟩
  | idle =>
    obtain rfl := next_unique hu (exec_encode_of_idle payload hs)
    cases ha : s.tx.actState with
    | opened =>
      obtain rfl := next_unique ht (exec_actInit_of_opened hs ha)
      obtain rfl := next_unique hu' (exec_actInit_of_opened hs ha)
      obtain rfl := next_unique ht' (exec_encode_of_idle payload hs)
      exact ⟨rfl, rfl, rfl⟩
    | closed =>
      obtain rfl := next_unique ht (exec_actInit_of_closed hs ha rfl)
      obtain rfl := next_unique hu' (exec_actInit_of_closed hs ha rfl)
      obtain rfl := next_unique ht' (exec_encode_of_idle payload ((applyInit_txState _ _).trans hs))
      exact ⟨applyInit_storePayload _ _ _ _, rfl, rfl⟩

end

end Sys2Proof.Machine

namespace Sys2Proof.Proofs

open Sys2Proof.Machine

/-- Settles O58: the two commands prepare the same transmission in either order, or `ACT_INIT` stops the host; the
wait of the host is that of `SEND`. -/
theorem txHostTransmitsOrStops : Obligations.TxHostTransmitsOrStops := by
  unfold Obligations.TxHostTransmitsOrStops
  refine ⟨?_, ?_, ?_⟩
  · intro encodeFirst payload T G s h hsound hidle hclosed hr
    obtain ⟨u, hprepared, hu⟩ := hostRun_prepares encodeFirst payload T G (15 + 8 * payload.length) hidle hclosed hr
    have hinv := (hsound.tx.static.after_applyInit (.ok h)).txInv_of_idle hidle
    rw [show 17 + 8 * payload.length = 15 + 8 * payload.length + 2 by omega, hprepared]
    exact hostRun_transmits payload T G hinv hidle rfl hu
  · intro encodeFirst payload T G n s k hidle hclosed hr
    exact hostRun_stops_at_actInit encodeFirst payload T G n hidle hclosed hr
  · exact fun payload s u t u' t' hu ht hu' ht' => encode_actInit_comm hu ht hu' ht'

end Sys2Proof.Proofs

/-! The consumer's read protocol (R225, R227): what one command of `READ_WAIT` finds in the ring and how the consumer goes
on, said once. The answer of end of stream, the consumer's output and its waiting are read from these cases. -/

namespace Sys2Proof.Machine

/-! ### What the consumer does with a response (R227) -/

/-- The response carries no Block: for the consumer the slot was EMPTY. -/
def NoBlock (r : Response) : Prop := r.st = .ok → ∀ d, r.v ≠ .block d

/-- How the consumer goes on in a phase, given the response `r` to its command. -/
inductive Reaction (r : Response) : ReadPhase → ReadNext → Prop where
  /-- a look at the slot that found a Block -/
  | data (p : ReadPhase) (d : Block) : Reaction r p (.answer (.data d))
  /-- the first look found none -/
  | waits (empty : NoBlock r) : Reaction r .look (.go .check)
  /-- the flag was seen set -/
  | flag (ok : r.st = .ok) (set : r.v = .flag true) : Reaction r .check (.go .lookAgain)
  /-- the flag was seen clear -/
  | again : Reaction r .check (.go .look)
  /-- the flag could not be read -/
  | stopped (st : Status) : Reaction r .check (.answer (.stopped st))
  /-- the second look found none -/
  | ends (empty : NoBlock r) : Reaction r .lookAgain (.answer .endOfStream)

section
variable {r : Response}

theorem noBlock_or_block (r : Response) : NoBlock r ∨ ∃ ek d, r = ⟨.ok, ek, .block d⟩ := by
  obtain ⟨st, ek, v⟩ := r
  cases st with
  | ok =>
    cases v with
    | block d => exact .inr ⟨ek, d, rfl⟩
    | _ => exact .inl fun _ _ => nofun
  | _ => exact .inl nofun

theorem noBlock_plain (st : Status) : NoBlock (.plain st) := fun _ _ => nofun

theorem readReact_of_noBlock (h : NoBlock r) :
    readReact .look r = .go .check ∧ readReact .lookAgain r = .answer .endOfStream := by
  obtain ⟨st, ek, v⟩ := r
  cases st with
  | ok =>
    cases v with
    | block d => exact absurd rfl (h rfl d)
    | _ => exact ⟨rfl, rfl⟩
  | _ => exact ⟨rfl, rfl⟩

theorem readReact_check_of_flag (f : Bool) :
    readReact .check ⟨.ok, .none, .flag f⟩ = .go (if f then .lookAgain else .look) := by
  cases f <;> rfl

theorem readReact_check (r : Response) : Reaction r .check (readReact .check r) := by
  obtain ⟨st, ek, v⟩ := r
  cases st with
  | ok =>
    cases v with
    | flag f =>
      cases f with
      | true => exact .flag rfl rfl
      | false => exact .again
    | _ => exact .again
  | _ => exact .stopped _

/-- Everything the consumer can do with a response. -/
theorem readReact_reaction (p : ReadPhase) (r : Response) : Reaction r p (readReact p r) := by
  cases p with
  | look =>
    obtain hempty | ⟨ek, d, rfl⟩ := noBlock_or_block r
    · exact (readReact_of_noBlock hempty).1 ▸ .waits hempty
    · exact .data .look d
  | check => exact readReact_check r
  | lookAgain =>
    obtain hempty | ⟨ek, d, rfl⟩ := noBlock_or_block r
    · exact (readReact_of_noBlock hempty).2 ▸ .ends hempty
    · exact .data .lookAgain d

end

/-! ### One command of `READ_WAIT` (R185, R188, R227) -/

/-- A read takes nothing: there is no ring, or the slot at `RB_RD` is EMPTY (R185). -/
def NothingToRead (rx : RxState) : Prop :=
  rx.rbState = .unbuilt ∨ ∃ c, slotRead rx rx.rbRd = some c ∧ c.filled = false

/-- The command of the phase, taken in `s`, leaves the RX elements and the next phase named. -/
inductive ReadEffect (s : State) : ReadPhase → RxState → ReadNext → Prop where
  /-- either look at the slot finds a Block -/
  | data (p : ReadPhase) (d : Block) (looks : p ≠ .check) (cell : slotRead s.rx s.rx.rbRd = some (.full d)) :
      ReadEffect s p (drainSlot d s.rx) (.answer (.data d))
  /-- the first look finds nothing -/
  | waits (nothing : NothingToRead s.rx) : ReadEffect s .look s.rx (.go .check)
  /-- the flag is read -/
  | flag (built : s.rx.rbState = .built) : ReadEffect s .check s.rx (.go (if s.rx.rbDone then .lookAgain else .look))
  /-- there is no ring to ask for its flag -/
  | stopped (unbuilt : s.rx.rbState = .unbuilt) : ReadEffect s .check s.rx (.answer (.stopped .state))
  /-- the second look finds nothing -/
  | ends (nothing : NothingToRead s.rx) : ReadEffect s .lookAgain s.rx (.answer .endOfStream)

section
variable {s t : State} {p : ReadPhase} {x : ReadNext} {rx : RxState} {q : List Block}

/-- `RB_READ` takes the Block at `RB_RD`, or there is nothing to read and it answers a status alone. -/
theorem execRbRead_cases (h : execRbRead s = .next t) :
    (∃ d, slotRead s.rx s.rx.rbRd = some (.full d) ∧
      t = (s.withRx (drainSlot d s.rx)).respond .cns ⟨.ok, .none, .block d⟩) ∨
    (NothingToRead s.rx ∧ ∃ st, t = s.respond .cns (.plain st)) := by
  obtain ⟨hunbuilt, rfl⟩ | ⟨-, c, hc, ⟨hempty, rfl⟩ | ⟨hfilled, d, hd, rfl⟩⟩ := execRbRead_next h
  · exact .inr ⟨.inl hunbuilt, _, rfl⟩
  · exact .inr ⟨.inr ⟨c, hc, hempty⟩, _, rfl⟩
  · exact .inl ⟨d, Slot.eq_full hfilled hd ▸ hc, rfl⟩

/-- What a command of the consumer answers, and everything it can do with the answer. -/
theorem exec_readCommand (h : exec (readCommand p) s = .next t) :
    ∃ r, t.env.responses = s.env.responses ++ [(.cns, r)] ∧ ReadEffect s p t.rx (readReact p r) := by
  cases p with
  | look =>
    obtain ⟨d, hcell, rfl⟩ | ⟨hnothing, st, rfl⟩ := execRbRead_cases h
    · exact ⟨_, rfl, .data .look d nofun hcell⟩
    · exact ⟨_, rfl, (readReact_of_noBlock (noBlock_plain st)).1 ▸ .waits hnothing⟩
  | check =>
    obtain ⟨hunbuilt, rfl⟩ | ⟨hbuilt, rfl⟩ := execRbGetDone_next h
    · exact ⟨_, rfl, .stopped hunbuilt⟩
    · exact ⟨_, rfl, readReact_check_of_flag s.rx.rbDone ▸ .flag hbuilt⟩
  | lookAgain =>
    obtain ⟨d, hcell, rfl⟩ | ⟨hnothing, st, rfl⟩ := execRbRead_cases h
    · exact ⟨_, rfl, .data .lookAgain d nofun hcell⟩
    · exact ⟨_, rfl, (readReact_of_noBlock (noBlock_plain st)).2 ▸ .ends hnothing⟩

/-- A command that answers its agent has been taken, and the answer is the last one of its next state. -/
theorem exec_of_issue {i : Instr} {r : Response} (h : issue i s = some (t, r)) :
    exec i s = .next t ∧ (t.env.responses.getLast?).map (·.2) = some r := by
  have hd := decode_encode i
  unfold issue turnOf at h
  cases he : encode i with
  | sym1 b =>
    rw [he] at h
    cases h
  | cmd4 port op a =>
    rw [he] at h hd
    have hstep : step (s.withTurns (.cmd port op a :: s.env.turns)) = exec i s :=
      (step_of_cmd rfl).trans (commandTurn_of_ok hd)
    simp only [hstep] at h
    split at h
    · simp only [Option.map_eq_some_iff, Prod.mk.injEq] at h
      obtain ⟨x, hx, rfl, rfl⟩ := h
      exact ⟨‹_›, by rw [hx]; rfl⟩
    · cases h
    · cases h

/-- One turn of the consumer in its read protocol. -/
theorem readTurn_effect (h : readTurn p s = some (t, x)) : ReadEffect s p t.rx x := by
  obtain ⟨⟨u, r⟩, hissue, hx⟩ := Option.map_eq_some_iff.mp h
  obtain ⟨rfl, rfl⟩ := Prod.mk.inj hx
  obtain ⟨hexec, hlast⟩ := exec_of_issue hissue
  obtain ⟨r', hr', heffect⟩ := exec_readCommand hexec
  have hsame : r' = r := by simpa [hr'] using hlast
  exact hsame ▸ heffect

/-! ### End of stream (R227) -/

/-- In a ring that is there, nothing is read only from an empty queue. -/
theorem RingQueue.eq_nil_of_nothingToRead (h : RingQueue rx q) (hbuilt : rx.rbState = .built)
    (hnothing : NothingToRead rx) : q = [] := by
  obtain hunbuilt | ⟨c, hc, hempty⟩ := hnothing
  · rw [hbuilt] at hunbuilt
    cases hunbuilt
  · obtain rfl := Option.some_inj.mp (h.slotRead_rbRd.symm.trans hc)
    cases q with
    | nil => rfl
    | cons d q => cases hempty

theorem RingInv.occ_eq_zero_of_nothingToRead (h : RingInv rx) (hbuilt : rx.rbState = .built)
    (hnothing : NothingToRead rx) : occ rx = 0 := by
  obtain ⟨q, hq⟩ := h.exists_ringQueue
  rw [hq.occ_eq, hq.eq_nil_of_nothingToRead hbuilt hnothing]
  rfl

/-- End of stream is answered only by a second look that finds nothing. -/
theorem ReadEffect.of_endOfStream (e : ReadEffect s p rx (.answer .endOfStream)) :
    p = .lookAgain ∧ rx = s.rx ∧ NothingToRead s.rx := by
  cases e with
  | ends hnothing => exact ⟨rfl, rfl, hnothing⟩

end

end Sys2Proof.Machine

namespace Sys2Proof.Proofs

open Sys2Proof.Machine

/-- Settles O48: the three phases by what the consumer does with a response; and the second look, over a sound ring,
finds nothing only with the queue empty. -/
theorem endOfStreamMeansAllRead : Obligations.EndOfStreamMeansAllRead := by
  unfold Obligations.EndOfStreamMeansAllRead
  refine ⟨?_, ?_, ?_, ?_⟩
  · intro p r h
    have hreaction := readReact_reaction p r
    rw [h] at hreaction
    cases hreaction with
    | ends hempty => exact ⟨rfl, hempty⟩
  · intro p r h
    have hreaction := readReact_reaction p r
    rw [h] at hreaction
    cases hreaction with
    | flag hok hset => exact ⟨rfl, hok, hset⟩
  · intro p r h
    have hreaction := readReact_reaction p r
    rw [h] at hreaction
    cases hreaction with
    | waits hempty => exact ⟨rfl, hempty⟩
  · intro s t hsound hbuilt h
    obtain ⟨-, hrx, hnothing⟩ := (readTurn_effect h).of_endOfStream
    obtain ⟨-, hread⟩ := hsound.rx.fifo
    have hocc := (hsound.rx.ringInv_of_built hbuilt).occ_eq_zero_of_nothingToRead hbuilt hnothing
    exact ⟨hocc, hread hocc, hrx⟩

end Sys2Proof.Proofs

/-! The consumer's output (R225): each turn outputs the Blocks it reads, so over a completed ring the turns together
output the envelope of the queue the ring holds. -/

namespace Sys2Proof.Machine

section
variable {value : Block → SampleBlock} {s t u : State} {p p' : ReadPhase} {d : Block} {offset : ℝ} {q : List Block}
variable {next phase : ConsumerPhase} {out : List (ℝ × ℝ)}

/-! ### One turn of the consumer (R225, R227) -/

theorem consumerTurn_of_go (h : readTurn p s = some (t, .go p')) :
    consumerTurn value (.reading offset p) s = some (t, .reading offset p', []) := by
  rw [consumerTurn, h, Option.map_some]

theorem consumerTurn_of_data (h : readTurn p s = some (t, .answer (.data d))) :
    consumerTurn value (.reading offset p) s =
      some (t, .reading (offset + (value d).duration) .look, blockOutput offset (value d)) := by
  rw [consumerTurn, h, Option.map_some]

theorem consumerTurn_of_endOfStream (h : readTurn p s = some (t, .answer .endOfStream)) :
    consumerTurn value (.reading offset p) s = some (t, .stopped .endOfStream, []) := by
  rw [consumerTurn, h, Option.map_some]

theorem consumerTurn_of_stopped {st : Status} (h : readTurn p s = some (t, .answer (.stopped st))) :
    consumerTurn value (.reading offset p) s = some (t, .stopped (.stopped st), []) := by
  rw [consumerTurn, h, Option.map_some]

/-- From `s`, a turn of the consumer at `offset` has read the Blocks `ds` and gone on to `next` with the output `out`. -/
structure OutputsBlocks (value : Block → SampleBlock) (offset : ℝ) (s t : State) (next : ConsumerPhase)
    (out : List (ℝ × ℝ)) (ds : List Block) : Prop where
  read : t.rx.rbRseq = s.rx.rbRseq ++ ds
  output : out = envelope offset (ds.map value)
  advance : ∀ offset' p', next = .reading offset' p' → offset' = offset + ((ds.map value).map (·.duration)).sum

/-- A turn that reads no Block outputs nothing and keeps its offset. -/
theorem OutputsBlocks.of_nothing (hrx : t.rx = s.rx) (hnext : ∀ offset' p', next = .reading offset' p' → offset' = offset) :
    OutputsBlocks value offset s t next [] [] :=
  ⟨by rw [hrx, List.append_nil], rfl, fun offset' p' h => by simp [hnext offset' p' h]⟩

/-- A turn outputs exactly the Blocks it reads, in every state. -/
theorem consumerTurn_outputs (h : consumerTurn value (.reading offset p) s = some (t, next, out)) :
    ∃ ds, OutputsBlocks value offset s t next out ds := by
  obtain ⟨⟨u, x⟩, hread, -⟩ := Option.map_eq_some_iff.mp h
  generalize hrx : u.rx = rx
  have e := hrx ▸ readTurn_effect hread
  cases e with
  | data p d _ _ =>
    rw [consumerTurn_of_data hread] at h
    cases h
    refine ⟨[d], by rw [hrx]; rfl, by simp, ?_⟩
    rintro offset' p' ⟨⟩
    simp
  | waits _ =>
    rw [consumerTurn_of_go hread] at h
    cases h
    exact ⟨[], .of_nothing hrx (by rintro _ _ ⟨⟩; rfl)⟩
  | flag _ =>
    rw [consumerTurn_of_go hread] at h
    cases h
    exact ⟨[], .of_nothing hrx (by rintro _ _ ⟨⟩; rfl)⟩
  | stopped _ =>
    rw [consumerTurn_of_stopped hread] at h
    cases h
    exact ⟨[], .of_nothing hrx nofun⟩
  | ends _ =>
    rw [consumerTurn_of_endOfStream hread] at h
    cases h
    exact ⟨[], .of_nothing hrx nofun⟩

/-! ### The consumer alone with a completed ring (R203, R225) -/

theorem consumerRun_succ (hturn : consumerTurn value phase s = some (u, next, out)) (n : Nat) :
    consumerRun value (n + 1) phase s = (consumerRun value n next u).map fun x => (x.1, x.2.1, out ++ x.2.2) := by
  rw [consumerRun, hturn]

/-- With nothing pending and the flag set, the three turns of the protocol output nothing and end the stream. -/
theorem consumerRun_of_nil (h : RingQueue s.rx []) (hbuilt : s.rx.rbState = .built) (hdone : s.rx.rbDone = true) :
    ∃ t, consumerRun value 3 (.reading offset .look) s = some (t, .stopped .endOfStream, []) ∧ t.rx = s.rx := by
  have hlook := readTurn_of_issue (p := .look) (issue_rbRead_of_nil h hbuilt)
  have hcheck := readTurn_of_issue (p := .check)
    (issue_rbGetDone_of_done (s := s.respond .cns (.plain .wait)) hbuilt hdone)
  have hagain := readTurn_of_issue (p := .lookAgain) (issue_rbRead_of_nil
    (s := (s.respond .cns (.plain .wait)).respond .cns ⟨.ok, .none, .flag true⟩) h hbuilt)
  have hrun := consumerRun_succ (value := value) (consumerTurn_of_go (offset := offset) hlook) 2
  rw [consumerRun_succ (consumerTurn_of_go hcheck), consumerRun_succ (consumerTurn_of_endOfStream hagain)] at hrun
  exact ⟨_, hrun, rfl⟩

/-- The consumer of a completed ring outputs the envelope of its queue, by induction on it. -/
theorem consumerRun_of_ringQueue (h : RingQueue s.rx q) (hbuilt : s.rx.rbState = .built)
    (hdone : s.rx.rbDone = true) :
    ∃ t, consumerRun value (q.length + 3) (.reading offset .look) s =
        some (t, .stopped .endOfStream, envelope offset (q.map value)) ∧
      RingQueue t.rx [] ∧ t.rx.rbWseq = s.rx.rbWseq := by
  induction q generalizing s offset with
  | nil =>
    obtain ⟨t, hrun, hrx⟩ := consumerRun_of_nil (value := value) (offset := offset) h hbuilt hdone
    exact ⟨t, hrun, hrx ▸ h, by rw [hrx]⟩
  | cons d q ih =>
    have hread := readTurn_of_issue (p := .look) (issue_rbRead_of_cons h hbuilt)
    obtain ⟨t, hrun, hempty, hwseq⟩ := ih (offset := offset + (value d).duration)
      (s := (s.withRx (drainSlot d s.rx)).respond .cns ⟨.ok, .none, .block d⟩) h.after_drainSlot hbuilt hdone
    refine ⟨t, ?_, hempty, hwseq⟩
    rw [List.length_cons, Nat.add_right_comm, consumerRun_succ (consumerTurn_of_data hread), hrun]
    rfl

end

end Sys2Proof.Machine

namespace Sys2Proof.Proofs

open Sys2Proof.Machine

/-- Settles O59: turn by turn, and over a completed ring by induction on the queue it holds. -/
theorem consumerOutputsTheEnvelope : Obligations.ConsumerOutputsTheEnvelope := by
  unfold Obligations.ConsumerOutputsTheEnvelope
  refine ⟨rfl, ?_, ?_⟩
  · intro value offset p s t q out h
    obtain ⟨ds, hread, houtput, hadvance⟩ := consumerTurn_outputs h
    exact ⟨ds, hread, houtput, hadvance⟩
  · intro value s hsound hbuilt hdone
    obtain ⟨q, hq⟩ := (hsound.rx.ringInv_of_built hbuilt).exists_ringQueue
    obtain ⟨t, hrun, hempty, hwseq⟩ := consumerRun_of_ringQueue (value := value) (offset := 0) hq hbuilt hdone
    rw [hq.occ_eq, hq.pendingBlocks_eq]
    have hocc : occ t.rx = 0 := hempty.occ_eq
    obtain ⟨-, hread⟩ := hempty.fifo
    exact ⟨t, hrun, (hread hocc).trans hwseq, hocc⟩

end Sys2Proof.Proofs

/-! The timeline (R225, R226): the timestamps of one block lie in the half-open interval of its duration, and blocks of
positive duration put these intervals one behind the other. -/

namespace Sys2Proof.Machine

section
variable {offset x : ℝ} {b : SampleBlock} {bs : List SampleBlock}

/-! ### The timestamps of one block (R225) -/

/-- The `i`-th of the `L` timestamps of a block is a fraction `i / L` of its duration behind the offset. -/
theorem mem_blockTimes_iff :
    x ∈ blockTimes offset b ↔ ∃ i < b.samples.length, offset + (i : ℝ) * b.duration / b.samples.length = x := by
  simp [blockTimes]

theorem SampleBlock.length_pos (b : SampleBlock) : (0 : ℝ) < b.samples.length :=
  lt_of_le_of_ne (Nat.cast_nonneg _) b.length_ne_zero.symm

theorem blockTimes_bounds (hpos : 0 < b.duration) (hx : x ∈ blockTimes offset b) :
    offset ≤ x ∧ x < offset + b.duration := by
  obtain ⟨i, hi, rfl⟩ := mem_blockTimes_iff.mp hx
  have hlength := b.length_pos
  have hi : (i : ℝ) < b.samples.length := Nat.cast_lt.mpr hi
  have hnonneg : 0 ≤ (i : ℝ) * b.duration / b.samples.length := by positivity
  have hlt : (i : ℝ) * b.duration / b.samples.length < b.duration := by
    rw [div_lt_iff₀ hlength, mul_comm]
    exact mul_lt_mul_of_pos_left hi hpos
  exact ⟨by linarith, by linarith⟩

theorem blockTimes_pairwise (hpos : 0 < b.duration) : (blockTimes offset b).Pairwise (· < ·) := by
  have hlength := b.length_pos
  refine List.pairwise_lt_range.map _ fun i j hij => ?_
  have hij : (i : ℝ) < j := Nat.cast_lt.mpr hij
  gcongr

/-- Every sample of a block has its timestamp in the output. -/
theorem blockOutput_map_fst (offset : ℝ) (b : SampleBlock) : (blockOutput offset b).map (·.1) = blockTimes offset b :=
  List.map_fst_zip (by simp)

/-! ### The timestamps of a stream (R225, R226) -/

theorem envelope_map_fst (offset : ℝ) (bs : List SampleBlock) :
    (envelope offset bs).map (·.1) = timeline offset bs := by
  induction bs generalizing offset with
  | nil => rfl
  | cons b bs ih => rw [envelope_cons, List.map_append, blockOutput_map_fst, ih, timeline_cons]

theorem sum_duration_nonneg (hpos : ∀ b ∈ bs, 0 < b.duration) : 0 ≤ (bs.map (·.duration)).sum :=
  List.sum_nonneg (by simpa using fun b hb => (hpos b hb).le)

/-- The timeline stays in the interval of the whole stream. -/
theorem timeline_bounds (hpos : ∀ b ∈ bs, 0 < b.duration) (hx : x ∈ timeline offset bs) :
    offset ≤ x ∧ x < offset + (bs.map (·.duration)).sum := by
  induction bs generalizing offset with
  | nil => cases hx
  | cons b bs ih =>
    obtain ⟨hb, hbs⟩ := List.forall_mem_cons.mp hpos
    have hrest := sum_duration_nonneg hbs
    rw [List.map_cons, List.sum_cons]
    obtain hx | hx := List.mem_append.mp hx
    · obtain ⟨hle, hlt⟩ := blockTimes_bounds hb hx
      exact ⟨hle, by linarith⟩
    · obtain ⟨hle, hlt⟩ := ih hbs hx
      exact ⟨by linarith, by linarith⟩

/-- Within a block the timestamps increase, and the next block begins where its interval ends. -/
theorem timeline_pairwise (hpos : ∀ b ∈ bs, 0 < b.duration) : (timeline offset bs).Pairwise (· < ·) := by
  induction bs generalizing offset with
  | nil => exact .nil
  | cons b bs ih =>
    obtain ⟨hb, hbs⟩ := List.forall_mem_cons.mp hpos
    refine List.pairwise_append.mpr ⟨blockTimes_pairwise hb, ih hbs, fun x hx y hy => ?_⟩
    obtain ⟨-, hend⟩ := blockTimes_bounds hb hx
    obtain ⟨hbegin, -⟩ := timeline_bounds hbs hy
    exact hend.trans_le hbegin

/-! ### The blocks of a session (R222, R223) -/

variable {c : SourceParams}

theorem SampleBlock.OfSession.duration_pos (h : b.OfSession c) : 0 < b.duration := by
  obtain ⟨-, hduration⟩ := h
  exact hduration ▸ blockDuration_pos c

theorem sum_duration_ofSession (h : ∀ b ∈ bs, b.OfSession c) :
    (bs.map (·.duration)).sum = bs.length * blockDuration c := by
  have hsame : bs.map (·.duration) = bs.map fun _ => blockDuration c := List.map_congr_left fun b hb => (h b hb).2
  rw [hsame, List.map_const', List.sum_replicate, nsmul_eq_mul]

/-- A block to be written is one the producer had to write before, or one it has read and timed in this turn. -/
theorem producerTurn_writes_ofSession {policy : ReadFailPolicy} {name : SampleBlock → Block} {e : ProducerDraw c}
    {p : ProducerPhase} {s t : State} {k : SourceHandle} {calls : List SourceCall}
    (h : producerTurn c policy name e p s = some (t, .write k b, calls))
    (hp : ∀ k' b', p = .write k' b' → b'.OfSession c) : b.OfSession c := by
  obtain ⟨-, -, -, ⟨k', -, hq⟩ | ⟨-, hq⟩⟩ | ⟨k', -, -, -, -, hq⟩ |
    ⟨k', -, -, -, -, ⟨b', hq, hb'⟩ | ⟨-, hq⟩⟩ | ⟨k', b', r, hp', -, -, hq⟩ | ⟨r, -, -, -, hq⟩ | ⟨ek, -, -, -, hq⟩ :=
    producerTurn_cases h
  · cases hq
  · cases hq
  · cases hq
  · cases hq
    exact hb'
  · cases policy <;> cases hq
  · split at hq
    · cases hq
      exact hp _ _ hp'
    · cases hq
  · cases hq
  · cases hq

end

end Sys2Proof.Machine

namespace Sys2Proof.Proofs

open Sys2Proof.Machine

/-- Settles O57, by induction on the blocks; those of a session have the one duration, which is positive. -/
theorem timelineIncreases : Obligations.TimelineIncreases := by
  unfold Obligations.TimelineIncreases
  refine ⟨?_, ?_, ?_⟩
  · intro bs offset hpos
    exact ⟨envelope_map_fst offset bs, timeline_pairwise hpos, fun x hx => timeline_bounds hpos hx⟩
  · intro c bs offset hsession
    have hpos : ∀ b ∈ bs, 0 < b.duration := fun b hb => (hsession b hb).duration_pos
    rw [← sum_duration_ofSession hsession]
    exact ⟨hpos, timeline_pairwise hpos, fun x hx => timeline_bounds hpos hx⟩
  · exact fun c policy name e p s t h b calls hturn hp => producerTurn_writes_ofSession hturn hp

end Sys2Proof.Proofs

/-! Waiting agents (R228, R301), over the executions that neither build nor tear down the ring. The producer: with nothing
written a read leaves room, and room stays. The consumer: a filled slot or the flag stays until its next command, and from
there its phases lead to an answer. -/

namespace Sys2Proof.Machine

/-! ### The turn an agent takes (R74, R99) -/

section
variable {s t : State} {u : Turn} {i j : Instr} {p : Port} {d : Block}

theorem takeTurn_of_isCommand (h : isCommand i u) (s : State) : takeTurn Config.params u s = exec i s := by
  obtain ⟨p, op, a, rfl, hd⟩ := h
  exact commandTurn_of_ok hd

theorem isCommand_unique (hi : isCommand i u) (hj : isCommand j u) : i = j := by
  obtain ⟨p, op, a, rfl, hi⟩ := hi
  obtain ⟨p', op', a', hu, hj⟩ := hj
  cases hu
  exact Decoded.ok.inj (hi.symm.trans hj)

theorem onPort_of_isCommand (h : isCommand i u) (hp : i.port = some p) : onPort p u := by
  obtain ⟨q, op, a, rfl, hd⟩ := h
  obtain rfl := Option.some_inj.mp ((port_of_decode hd).symm.trans hp)
  exact ⟨op, a, rfl⟩

theorem isCommand_of_offers (h : offers d u) : isCommand (.rbWrite d) u := by
  obtain ⟨a, rfl, rfl⟩ := h
  exact ⟨_, _, a, rfl, rfl⟩

/-! ### One turn in the life of a ring (R190, R291) -/

/-- From `s`, the turn `u`, no construction and no teardown, leaves the RX elements named. -/
inductive RingTurn (u : Turn) (s : State) : RxState → Prop where
  | unchanged : RingTurn u s s.rx
  /-- an accepted `RB_WRITE` (R183) -/
  | fill (d : Block) (c : Slot Block) (turn : isCommand (.rbWrite d) u) (cell : slotRead s.rx s.rx.rbWr = some c)
      (empty : c.filled = false) : RingTurn u s (fillSlot d s.rx)
  /-- an accepted `RB_READ` (R185) -/
  | drain (d : Block) (c : Slot Block) (turn : isCommand .rbRead u) (cell : slotRead s.rx s.rx.rbRd = some c)
      (data : c.data = some d) : RingTurn u s (drainSlot d s.rx)
  /-- an accepted `RB_SET_DONE` (R187) -/
  | setDone (turn : isCommand .rbSetDone u) : RingTurn u s { s.rx with rbDone := true }

/-- A turn taken is the step of the state in which it stands first. -/
theorem takeTurn_rxEffect (h : takeTurn Config.params u s = .next t) :
    RxEffect (s.withTurns (u :: s.env.turns)) t.rx :=
  step_rxEffect (s := s.withTurns (u :: s.env.turns)) h

theorem isCommand_of_nextIsCommand {ts : List Turn} (h : NextIsCommand (s.withTurns (u :: ts)) i) : isCommand i u := by
  obtain ⟨v, vs, hturns, hv⟩ := h
  cases hturns
  exact hv

theorem takeTurn_ringTurn (h : takeTurn Config.params u s = .next t) (hkeeps : keepsRing u = true) :
    RingTurn u s t.rx := by
  have hfirst : ∀ v vs, (s.withTurns (u :: s.env.turns)).env.turns = v :: vs → keepsRing v = true := by
    rintro v vs ⟨⟩
    exact hkeeps
  generalize ht : t.rx = rx
  cases ht ▸ takeTurn_rxEffect h with
  | unchanged => exact .unchanged
  | build k turn => exact absurd rfl (turn.port_ne_rxh hfirst)
  | fill d c turn _ _ cell empty => exact .fill d c (isCommand_of_nextIsCommand turn) cell empty
  | drain d c turn _ cell _ data => exact .drain d c (isCommand_of_nextIsCommand turn) cell data
  | setDone turn => exact .setDone (isCommand_of_nextIsCommand turn)
  | reset turn => exact absurd turn (not_reset_of_keepsRing hfirst)

variable {rx : RxState}

theorem RingTurn.rbState_eq (e : RingTurn u s rx) : rx.rbState = s.rx.rbState := by cases e <;> rfl

/-- A write leaves a Block pending. -/
theorem RingInv.occ_fillSlot_pos (h : RingInv s.rx) {c : Slot Block} (hc : slotRead s.rx s.rx.rbWr = some c)
    (hempty : c.filled = false) : 0 < occ (fillSlot d s.rx) := by
  obtain ⟨q, hq⟩ := h.exists_ringQueue
  rw [(hq.after_fillSlot d hc hempty).occ_eq]
  simp

/-- A Block pending stays pending until the consumer acts. -/
theorem RingTurn.keeps_occ_pos (e : RingTurn u s rx) (h : RingInv s.rx) (hcns : ¬onPort .cns u) (hocc : 0 < occ s.rx) :
    0 < occ rx := by
  cases e with
  | unchanged => exact hocc
  | fill d c _ cell empty => exact h.occ_fillSlot_pos cell empty
  | drain d c turn => exact absurd (onPort_of_isCommand turn rfl) hcns
  | setDone => exact hocc

/-- There is a Block to read or the end of the stream to see (R228). -/
def ReadyToRead (rx : RxState) : Prop := 0 < occ rx ∨ rx.rbDone = true

theorem RingTurn.keeps_ready (e : RingTurn u s rx) (h : RingInv s.rx) (hcns : ¬onPort .cns u)
    (hready : ReadyToRead s.rx) : ReadyToRead rx := by
  cases e with
  | unchanged => exact hready
  | fill d c _ cell empty => exact .inl (h.occ_fillSlot_pos cell empty)
  | drain d c turn => exact absurd (onPort_of_isCommand turn rfl) hcns
  | setDone => exact .inr rfl

end

/-! ### Executions in the life of a ring (R228) -/

/-- An execution that begins with a ring and neither builds nor tears one down. -/
structure RingLife (u : Nat → Turn) (σ : Nat → State) : Prop where
  execution : IsExecution u σ
  built : (σ 0).rx.rbState = .built
  keeps : ∀ n, keepsRing (u n) = true

section
variable {u : Nat → Turn} {σ : Nat → State} {n : Nat}

theorem RingLife.ringTurn (h : RingLife u σ) (n : Nat) : RingTurn (u n) (σ n) (σ (n + 1)).rx :=
  takeTurn_ringTurn (h.execution n) (h.keeps n)

theorem RingLife.built_at (h : RingLife u σ) (n : Nat) : (σ n).rx.rbState = .built := by
  induction n with
  | zero => exact h.built
  | succ n ih => exact (h.ringTurn n).rbState_eq.trans ih

theorem RingLife.ringInv_at (h : RingLife u σ) (hsound : Sound (σ 0)) (n : Nat) : RingInv (σ n).rx := by
  refine RxInv.ringInv_of_built ?_ (h.built_at n)
  induction n with
  | zero => exact hsound.rx
  | succ n ih => exact (takeTurn_rxEffect (h.execution n)).rxInv ih

theorem RingLife.exec_of_isCommand (h : RingLife u σ) {i : Instr} (hi : isCommand i (u n)) :
    exec i (σ n) = .next (σ (n + 1)) := (takeTurn_of_isCommand hi (σ n)).symm.trans (h.execution n)

/-! ### The producer before a full ring (R228) -/

variable {d : Block} {w : List Block}

/-- What has been written is `w`, and the flag is not set. -/
structure Unwritten (w : List Block) (rx : RxState) : Prop where
  wseq : rx.rbWseq = w
  notDone : rx.rbDone = false

/-- While the offer of `d` is not accepted, no other write is, and the flag is not set. -/
theorem RingLife.unwritten_at (h : RingLife u σ) (hopen : Unwritten w (σ 0).rx)
    (hoffers : ∀ n, onPort .prd (u n) → offers d (u n))
    (hnever : ∀ n, offers d (u n) → (σ (n + 1)).rx.rbWseq ≠ w ++ [d]) (n : Nat) : Unwritten w (σ n).rx := by
  induction n with
  | zero => exact hopen
  | succ n ih =>
    have hturn := h.ringTurn n
    generalize hrx : (σ (n + 1)).rx = rx at hturn
    cases hturn with
    | unchanged => exact ih
    | fill d' c turn =>
      have hoffer := hoffers n (onPort_of_isCommand turn rfl)
      cases isCommand_unique turn (isCommand_of_offers hoffer)
      refine absurd ?_ (hnever n hoffer)
      rw [hrx, fillSlot_rbWseq, ih.wseq]
    | drain => exact ⟨ih.wseq, ih.notDone⟩
    | setDone turn =>
      cases isCommand_unique turn (isCommand_of_offers (hoffers n (onPort_of_isCommand turn rfl)))

/-- With a Block read and none written there is room (R184). -/
theorem RingLife.room_of_read (h : RingLife u σ) (hring : RingInv (σ n).rx) (hread : isCommand .rbRead (u n)) :
    occ (σ (n + 1)).rx < (σ (n + 1)).rx.rbK := by
  obtain ⟨q, hq⟩ := hring.exists_ringQueue
  have hexec := h.exec_of_isCommand hread
  cases q with
  | nil =>
    rw [← next_unique (exec_rbRead_of_nil hq (h.built_at n)) hexec]
    exact hq.occ_eq.trans_lt hq.rbK_pos
  | cons a q =>
    rw [← next_unique (exec_rbRead_of_ok (hq.ringRead_of_cons (h.built_at n))) hexec]
    exact hq.after_drainSlot.occ_eq.trans_lt hq.length_le

/-- Room goes only by a write. -/
theorem RingTurn.keeps_room {u : Turn} {s : State} {rx : RxState} (e : RingTurn u s rx) (h : RingInv s.rx)
    (hsame : rx.rbWseq = s.rx.rbWseq) (hroom : occ s.rx < s.rx.rbK) : occ rx < rx.rbK := by
  cases e with
  | unchanged => exact hroom
  | fill d => simp at hsame
  | drain d c _ cell data =>
    obtain ⟨q, hq⟩ := h.exists_ringQueue
    obtain ⟨q', rfl⟩ := hq.eq_cons_of_data cell data
    exact hq.after_drainSlot.occ_eq.trans_lt hq.length_le
  | setDone => exact hroom

theorem RingLife.room_at (h : RingLife u σ) (hring : ∀ n, RingInv (σ n).rx) (hsame : ∀ n, (σ n).rx.rbWseq = w)
    (hroom : occ (σ n).rx < (σ n).rx.rbK) {m : Nat} (hm : n ≤ m) : occ (σ m).rx < (σ m).rx.rbK := by
  induction m, hm using Nat.le_induction with
  | base => exact hroom
  | succ m _ ih => exact (h.ringTurn m).keeps_room (hring m) ((hsame _).trans (hsame m).symm) ih

/-- An offer that finds room, before the flag is set, is accepted (R183). -/
theorem RingLife.written_of_room (h : RingLife u σ) (hring : RingInv (σ n).rx) (hopen : Unwritten w (σ n).rx)
    (hroom : occ (σ n).rx < (σ n).rx.rbK) (hoffer : offers d (u n)) : (σ (n + 1)).rx.rbWseq = w ++ [d] := by
  obtain ⟨q, hq⟩ := hring.exists_ringQueue
  rw [hq.occ_eq] at hroom
  have hwrite := ringWrite_of_empty (d := d) (h.built_at n) hopen.notDone (hq.slotRead_rbWr_of_room hroom) rfl
  rw [← next_unique (exec_rbWrite_of_ok hwrite) (h.exec_of_isCommand (isCommand_of_offers hoffer)), ← hopen.wseq]
  rfl

/-- R228, the producer: refused for ever, it would be refused with room. -/
theorem RingLife.offer_accepted (h : RingLife u σ) (hsound : Sound (σ 0)) (hnotDone : (σ 0).rx.rbDone = false)
    (hoffers : ∀ n, onPort .prd (u n) → offers d (u n))
    (hfair : WeaklyFair u (fun n => (σ n).rx.rbWseq = (σ 0).rx.rbWseq) (offers d))
    (hreads : ∀ n, ∃ m, n ≤ m ∧ isCommand .rbRead (u m)) :
    ∃ n, offers d (u n) ∧ (σ (n + 1)).rx.rbWseq = (σ 0).rx.rbWseq ++ [d] := by
  by_contra hnone
  have hnever : ∀ n, offers d (u n) → (σ (n + 1)).rx.rbWseq ≠ (σ 0).rx.rbWseq ++ [d] :=
    fun n hoffer hwritten => hnone ⟨n, hoffer, hwritten⟩
  have hopen := h.unwritten_at ⟨rfl, hnotDone⟩ hoffers hnever
  have hring := h.ringInv_at hsound
  obtain ⟨m, -, hread⟩ := hreads 0
  obtain ⟨k, hk, hoffer⟩ := hfair (m + 1) fun n _ => (hopen n).wseq
  have hroom := h.room_at hring (fun n => (hopen n).wseq) (h.room_of_read (hring m) hread) hk
  exact hnever k hoffer (h.written_of_room (hring k) (hopen k) hroom hoffer)

end

/-! ### The consumer in `READ_WAIT` (R227, R228, R301) -/

section
variable {u : Nat → Turn} {σ : Nat → State} {q : Nat → ReadNext} {n : Nat} {p : ReadPhase}

/-- The consumer's turn is the command of its phase, with everything that can do. -/
theorem FollowsReadWait.effect (hfollows : FollowsReadWait u σ q) (h : RingLife u σ) (hq : q n = .go p)
    (hcns : onPort .cns (u n)) :
    ∃ rx x, (σ (n + 1)).rx = rx ∧ q (n + 1) = x ∧ ReadEffect (σ n) p rx x := by
  obtain ⟨-, -, hacts⟩ := hfollows n
  obtain ⟨hcommand, r, hr, hnext⟩ := hacts p hq hcns
  obtain ⟨r', hr', heffect⟩ := exec_readCommand (h.exec_of_isCommand hcommand)
  have hsame : r' = r := by simpa using hr'.symm.trans hr
  exact ⟨_, _, rfl, hnext, hsame ▸ heffect⟩

/-- A property of the consumer's phases that each of its commands keeps, it keeps for ever. -/
theorem FollowsReadWait.invariant (hfollows : FollowsReadWait u σ q) (h : RingLife u σ) {I : ReadNext → Prop}
    (hstart : I (q 0))
    (hkeeps : ∀ n p rx x, I (.go p) → ReadEffect (σ n) p rx x → I x) (n : Nat) : I (q n) := by
  induction n with
  | zero => exact hstart
  | succ n ih =>
    obtain ⟨hanswered, hothers, -⟩ := hfollows n
    cases hq : q n with
    | answer r => exact hanswered r hq ▸ hq ▸ ih
    | go p =>
      by_cases hcns : onPort .cns (u n)
      · obtain ⟨rx, x, -, rfl, e⟩ := hfollows.effect h hq hcns
        exact hkeeps n p rx _ (hq ▸ ih) e
      · exact hothers p hq hcns ▸ hq ▸ ih

/-- Over a ring that is there the flag can always be read. -/
theorem FollowsReadWait.never_stopped (hfollows : FollowsReadWait u σ q) (h : RingLife u σ) (hstart : q 0 = .go .look)
    (n : Nat) : ∀ st, q n ≠ .answer (.stopped st) := by
  refine hfollows.invariant (I := fun x => ∀ st, x ≠ .answer (.stopped st)) h (by simp [hstart])
    (fun m p rx x _ e => ?_) n
  cases e with
  | stopped hunbuilt =>
    rw [h.built_at m] at hunbuilt
    cases hunbuilt
  | _ => exact nofun

/-- R301: with the flag never set the consumer never comes to its second look. -/
theorem FollowsReadWait.never_ends (hfollows : FollowsReadWait u σ q) (h : RingLife u σ) (hstart : q 0 = .go .look)
    (hnotDone : ∀ n, (σ n).rx.rbDone = false) (n : Nat) : q n ≠ .go .lookAgain ∧ q n ≠ .answer .endOfStream := by
  refine hfollows.invariant (I := fun x => x ≠ .go .lookAgain ∧ x ≠ .answer .endOfStream) h (by simp [hstart])
    (fun m p rx x hp e => ?_) n
  cases e with
  | data => exact ⟨nofun, nofun⟩
  | waits => exact ⟨nofun, nofun⟩
  | flag => simp [hnotDone m]
  | stopped => exact ⟨nofun, nofun⟩
  | ends =>
    obtain ⟨hlook, -⟩ := hp
    exact absurd rfl hlook

theorem RingLife.notDone_at (h : RingLife u σ) (hnotDone : (σ 0).rx.rbDone = false)
    (hnever : ∀ n, ¬isCommand .rbSetDone (u n)) (n : Nat) : (σ n).rx.rbDone = false := by
  induction n with
  | zero => exact hnotDone
  | succ n ih =>
    have hturn := h.ringTurn n
    generalize (σ (n + 1)).rx = rx at hturn ⊢
    cases hturn with
    | unchanged => exact ih
    | fill => exact ih
    | drain => exact ih
    | setDone turn => exact absurd turn (hnever n)

/-! ### `READ_WAIT` comes to its answer (R228) -/

variable (hfollows : FollowsReadWait u σ q) (h : RingLife u σ) (hring : ∀ n, RingInv (σ n).rx)
variable (hturns : ∀ n, ∃ m, n ≤ m ∧ onPort .cns (u m))
include hfollows hturns

/-- The consumer's next turn comes in the phase it stands in, with what other turns keep kept. -/
theorem FollowsReadWait.next_turn {I : RxState → Prop}
    (hkeeps : ∀ n, ¬onPort .cns (u n) → I (σ n).rx → I (σ (n + 1)).rx) (hq : q n = .go p) (hI : I (σ n).rx) :
    ∃ m, onPort .cns (u m) ∧ q m = .go p ∧ I (σ m).rx := by
  obtain ⟨m, hm, hcns⟩ := hturns n
  obtain ⟨k, rfl⟩ := Nat.exists_eq_add_of_le hm
  clear hm
  induction k generalizing n with
  | zero => exact ⟨n, hcns, hq, hI⟩
  | succ k ih =>
    by_cases hnow : onPort .cns (u n)
    · exact ⟨n, hnow, hq, hI⟩
    · obtain ⟨-, hothers, -⟩ := hfollows n
      exact ih (hothers p hq hnow) (hkeeps n hnow hI) (by rwa [Nat.add_right_comm])

include h

/-- The second look answers, whatever it finds. -/
theorem FollowsReadWait.answered_of_lookAgain (hq : q n = .go .lookAgain) : ∃ m r, q m = .answer r := by
  obtain ⟨m, hcns, hqm, -⟩ := hfollows.next_turn hturns (I := fun _ => True) (fun _ _ _ => trivial) hq trivial
  obtain ⟨rx, x, -, hx, e⟩ := hfollows.effect h hqm hcns
  cases e with
  | data => exact ⟨m + 1, _, hx⟩
  | ends => exact ⟨m + 1, _, hx⟩

include hring

/-- A look with a Block pending answers it. -/
theorem FollowsReadWait.answered_of_pending (hq : q n = .go .look) (hocc : 0 < occ (σ n).rx) :
    ∃ m r, q m = .answer r := by
  obtain ⟨m, hcns, hqm, hoccm⟩ := hfollows.next_turn hturns (I := (0 < occ ·))
    (fun n hcns => (h.ringTurn n).keeps_occ_pos (hring n) hcns) hq hocc
  obtain ⟨rx, x, -, hx, e⟩ := hfollows.effect h hqm hcns
  cases e with
  | data => exact ⟨m + 1, _, hx⟩
  | waits hnothing => exact absurd ((hring m).occ_eq_zero_of_nothingToRead (h.built_at m) hnothing) hoccm.ne'

/-- The flag, if set, leads to the second look; if not, there is a Block for the first. -/
theorem FollowsReadWait.answered_of_check (hq : q n = .go .check) (hready : ReadyToRead (σ n).rx) :
    ∃ m r, q m = .answer r := by
  obtain ⟨m, hcns, hqm, hreadym⟩ := hfollows.next_turn hturns (I := ReadyToRead)
    (fun n hcns => (h.ringTurn n).keeps_ready (hring n) hcns) hq hready
  obtain ⟨rx, x, hrx, hx, e⟩ := hfollows.effect h hqm hcns
  cases e with
  | data p d looks => exact absurd rfl looks
  | flag =>
    cases hdone : (σ m).rx.rbDone with
    | true => exact hfollows.answered_of_lookAgain h hturns (by simpa [hdone] using hx)
    | false =>
      obtain hocc | hset := hreadym
      · exact hfollows.answered_of_pending h hring hturns (by simpa [hdone] using hx) (hrx ▸ hocc)
      · rw [hdone] at hset
        cases hset
  | stopped => exact ⟨m + 1, _, hx⟩

/-- A look that finds nothing asks for the flag, over the same ring. -/
theorem FollowsReadWait.answered_of_look (hq : q n = .go .look) (hready : ReadyToRead (σ n).rx) :
    ∃ m r, q m = .answer r := by
  obtain ⟨m, hcns, hqm, hreadym⟩ := hfollows.next_turn hturns (I := ReadyToRead)
    (fun n hcns => (h.ringTurn n).keeps_ready (hring n) hcns) hq hready
  obtain ⟨rx, x, hrx, hx, e⟩ := hfollows.effect h hqm hcns
  cases e with
  | data => exact ⟨m + 1, _, hx⟩
  | waits => exact hfollows.answered_of_check h hring hturns hx (hrx ▸ hreadym)

end

section
variable {u : Nat → Turn} {σ : Nat → State} {q : Nat → ReadNext}

/-- R228, the consumer: waiting for ever, it would have its turns for ever, and they lead to an answer. -/
theorem FollowsReadWait.answered (hfollows : FollowsReadWait u σ q) (h : RingLife u σ) (hsound : Sound (σ 0))
    (hfair : WeaklyFair u (fun n => ∃ p, q n = .go p) (onPort .cns)) (hready : ∃ n, ReadyToRead (σ n).rx) :
    ∃ n r, q n = .answer r := by
  by_contra hnone
  have hwaits : ∀ n, ∃ p, q n = .go p := fun n => by
    cases hq : q n with
    | go p => exact ⟨p, rfl⟩
    | answer r => exact absurd ⟨n, r, hq⟩ hnone
  have hturns : ∀ n, ∃ m, n ≤ m ∧ onPort .cns (u m) := fun n => hfair n fun m _ => hwaits m
  have hring := h.ringInv_at hsound
  obtain ⟨n, hn⟩ := hready
  obtain ⟨p, hq⟩ := hwaits n
  cases p with
  | look => exact hnone (hfollows.answered_of_look h hring hturns hq hn)
  | check => exact hnone (hfollows.answered_of_check h hring hturns hq hn)
  | lookAgain => exact hnone (hfollows.answered_of_lookAgain h hturns hq)

end

end Sys2Proof.Machine

namespace Sys2Proof.Proofs

open Sys2Proof.Machine

/-- Settles O60: the two liveness clauses by contradiction from waiting for ever, the last by an invariant of the
consumer's phases. -/
theorem waitingAgentsProceed : Obligations.WaitingAgentsProceed := by
  unfold Obligations.WaitingAgentsProceed
  refine ⟨?_, ?_, ?_⟩
  · intro u σ d hexec hsound hbuilt hnotDone hkeeps hoffers hfair hreads
    exact RingLife.offer_accepted ⟨hexec, hbuilt, hkeeps⟩ hsound hnotDone hoffers hfair hreads
  · intro u σ q hexec hsound hbuilt hkeeps hfollows hstart hfair hready
    have hlife : RingLife u σ := ⟨hexec, hbuilt, hkeeps⟩
    obtain ⟨n, r, hr⟩ := hfollows.answered hlife hsound hfair hready
    refine ⟨n, r, hr, fun st hst => ?_⟩
    exact hfollows.never_stopped hlife hstart n st (hst ▸ hr)
  · intro u σ q hexec hbuilt hnotDone hkeeps hnever hfollows hstart n
    have hlife : RingLife u σ := ⟨hexec, hbuilt, hkeeps⟩
    obtain ⟨-, hne⟩ := hfollows.never_ends hlife hstart (hlife.notDone_at hnotDone hnever) n
    exact hne

end Sys2Proof.Proofs

/-! Byte and bit conversion (R233): a byte holds the sum of its eight weighted bits exactly, and each bit is read back
from that sum. -/

namespace Sys2Proof.Machine

/-! ### The weighted sum of a sequence of bits -/

/-- The sum of `d k * 2^k` over the first `w` positions: bit 0 is the lowest. -/
def weightedBits (d : Nat → Bit) (w : Nat) : Nat := ((List.range w).map fun k => (d k).toNat * 2 ^ k).sum

section
variable {d : Nat → Bit} {b : List Bit} {k w : Nat}

theorem weightedBits_succ : weightedBits d (w + 1) = weightedBits d w + (d w).toNat * 2 ^ w := by
  rw [weightedBits, List.range_succ, List.map_append, List.sum_append, List.map_singleton, List.sum_singleton]
  rfl

theorem weightedBits_lt : weightedBits d w < 2 ^ w := by
  induction w with
  | zero => exact Nat.one_pos
  | succ w ih =>
    have hbit : (d w).toNat * 2 ^ w ≤ 1 * 2 ^ w := Nat.mul_le_mul_right _ (Nat.le_of_lt_succ (d w).isLt)
    rw [weightedBits_succ, Nat.pow_succ]
    omega

/-- Digit `k` of the sum is bit `k`: the lower bits stay below `2^k`, and every higher bit weighs a multiple of
`2^(k + 1)`. -/
theorem weightedBits_digit (hk : k < w) : weightedBits d w / 2 ^ k % 2 = (d k).toNat := by
  induction w with
  | zero => exact absurd hk k.not_lt_zero
  | succ w ih =>
    rw [weightedBits_succ]
    rcases Nat.lt_succ_iff_lt_or_eq.mp hk with hlow | rfl
    · obtain ⟨j, rfl⟩ := Nat.exists_eq_add_of_lt hlow
      have hweight : (d (k + j + 1)).toNat * 2 ^ (k + j + 1) = (d (k + j + 1)).toNat * 2 ^ j * 2 * 2 ^ k := by ring
      rw [hweight, Nat.add_mul_div_right _ _ (Nat.two_pow_pos k), Nat.add_mul_mod_self_right, ih hlow]
    · rw [Nat.add_mul_div_right _ _ (Nat.two_pow_pos k), Nat.div_eq_of_lt weightedBits_lt, Nat.zero_add,
        Nat.mod_eq_of_lt (d k).isLt]

/-! ### A byte and its bits -/

/-- R233 sums from bit 7 down, `weightedBits` from bit 0 up. -/
theorem sum_msbFirst_eq_weightedBits (b : List Bit) :
    ((List.range 8).map fun m => (b.getD m 0).toNat * 2 ^ (7 - m)).sum = weightedBits (fun k => b.getD (7 - k) 0) 8 :=
  (List.sum_reverse ((List.range 8).map fun m => (b.getD m 0).toNat * 2 ^ (7 - m))).symm

/-- The sum fits in a byte, so `byte8` loses nothing of it. -/
theorem byte8_toNat (b : List Bit) : (byte8 b).toNat = weightedBits (fun k => b.getD (7 - k) 0) 8 := by
  rw [byte8, sum_msbFirst_eq_weightedBits, BitVec.toNat_ofNat, Nat.mod_eq_of_lt weightedBits_lt]

theorem bitOf_byte8 (b : List Bit) (hk : k < 8) : bitOf (byte8 b) k = b.getD (7 - k) 0 := by
  rw [bitOf, byte8_toNat, weightedBits_digit hk, BitVec.ofNat_toNat, BitVec.setWidth_eq]

theorem bits8_byte8 (hb : b.length = 8) : bits8 (byte8 b) = b := by
  refine List.ext_getElem (hb ▸ bits8_length _) fun m hm hmb => ?_
  have hm8 : m < 8 := hm
  have hread : (bits8 (byte8 b))[m]? = some b[m] := by
    rw [bits8_getElem? _ hm8, bitOf_byte8 b (by omega), Nat.sub_sub_self (by omega), List.getD_eq_getElem b 0 hmb]
  exact (List.getElem?_eq_some_iff.mp hread).2

end

end Sys2Proof.Machine

namespace Sys2Proof.Proofs

open Sys2Proof.Machine

/-- Settles O10: bytes and 8-bit sequences stand for the same weighted sums of bits, by induction on the number of
bits. -/
theorem byteAndBitsAreInverse : Obligations.ByteAndBitsAreInverse := by
  unfold Obligations.ByteAndBitsAreInverse
  refine ⟨byte8_bits8, fun b hb => bits8_byte8 hb, fun v m hm => bits8_getElem? v hm, fun b _ => ?_⟩
  exact (byte8_toNat b).trans (sum_msbFirst_eq_weightedBits b).symm

end Sys2Proof.Proofs

/-! A fatal initialisation error (R244): what every `ACT_INIT` that answers `ST_DEVERR` has in common, and what it
leaves for a `TRANSMIT`. -/

namespace Sys2Proof.Machine

/-- The `ACT_INIT` of `s` raises the fatal error `k` and leaves the TX elements `tx`. -/
inductive FatalInit (s : State) : InitError → TxState → Prop where
  /-- a second opening: the device is not called (R141) -/
  | again (opened : s.tx.actState = .opened) :
      FatalInit s .alreadyInitialized (takeException (.fatal .alreadyInitialized) s.tx)
  /-- the device is called and answers `k` (R141) -/
  | answered (k : InitError) (closed : s.tx.actState = .closed) (answer : s.env.nextInit = .err k) :
      FatalInit s k (takeException (.fatal k) (s.tx.emit (.init (.err k))))

section
variable {s t : State} {k : InitError} {tx : TxState} {r : Response}

/-- The one response a transition adds is read back from the stream. -/
theorem response_unique {p : Port} {rs : List (Port × Response)} {r' : Response}
    (h : rs ++ [(p, r')] = rs ++ [(p, r)]) : r = r' := by simpa using h.symm

/-- `ST_DEVERR` is answered outside a run, to a fatal error, with its kind. -/
theorem execActInit_fatal (h : execActInit s = .next t) (hresp : t.env.responses = s.env.responses ++ [(.txh, r)])
    (hst : r.st = .deverr) : s.tx.txState = .idle ∧ ∃ k, r.ek = k.kind ∧ FatalInit s k t.tx := by
  obtain ⟨-, rfl⟩ | ⟨idle, opened, rfl⟩ | ⟨idle, closed, rfl⟩ := execActInit_next h
  · obtain rfl := response_unique hresp
    cases hst
  · obtain rfl := response_unique hresp
    exact ⟨idle, _, rfl, .again opened⟩
  · obtain rfl := response_unique hresp
    cases hanswer : s.env.nextInit with
    | ok hd =>
      rw [hanswer] at hst
      cases hst
    | err k => exact ⟨idle, k, rfl, .answered k closed hanswer⟩

/-- R244: the kind, the status and perhaps an event, and nothing else. -/
theorem FatalInit.tx_eq (h : FatalInit s k tx) :
    tx = { s.tx with fatalErr := k.kind, txStatus := .aborted, txEv := tx.txEv } := by
  cases h <;> rfl

theorem FatalInit.of_opened (h : FatalInit s k tx) (hopen : s.tx.actState = .opened) :
    tx.txEv = s.tx.txEv ∧ k = .alreadyInitialized := by
  cases h with
  | again _ => exact ⟨rfl, rfl⟩
  | answered _ closed _ => cases hopen.symm.trans closed

theorem FatalInit.of_closed (h : FatalInit s k tx) (hclosed : s.tx.actState = .closed) :
    s.env.nextInit = .err k ∧ tx.txEv = s.tx.txEv ++ [.init (.err k)] := by
  cases h with
  | again opened => cases opened.symm.trans hclosed
  | answered _ _ hanswer => exact ⟨hanswer, rfl⟩

/-- The fatal kinds by name and by code (R98). -/
theorem fatalKind_code_mem (k : InitError) :
    (k, k.kind, k.kind.code) ∈
      [(InitError.notFound, ErrKind.notFound, 1), (.alreadyInitialized, .alreadyInitialized, 2),
        (.accessDenied, .accessDenied, 3)] := by
  cases k <;> decide

end

end Sys2Proof.Machine

namespace Sys2Proof.Proofs

open Sys2Proof.Machine

/-- Settles O18, from the two ways an `ACT_INIT` fails; no run is going on then, so `TRANSMIT` is refused for the state
of the Actuator. -/
theorem fatalErrorStartsNothing : Obligations.FatalErrorStartsNothing := by
  unfold Obligations.FatalErrorStartsNothing
  intro s t r h hresp hst
  obtain ⟨hidle, k, hek, hfatal⟩ := execActInit_fatal h hresp hst
  have htx := hfatal.tx_eq
  rw [hek]
  refine ⟨by rw [htx], by rw [htx], htx, fun hopen => ?_, fun hclosed => ?_, fun hclosed T G => ?_⟩
  · obtain ⟨hev, rfl⟩ := hfatal.of_opened hopen
    exact ⟨hev, rfl, rfl⟩
  · obtain ⟨hanswer, hev⟩ := hfatal.of_closed hclosed
    exact ⟨k, hanswer, hev, fatalKind_code_mem k⟩
  · have hidle' : t.tx.txState = .idle := by rw [htx, hidle]
    exact exec_transmit_of_notReady hidle' (.inr hclosed)

end Sys2Proof.Proofs

/-! `STEP` and `CANCEL` in one clock cycle (R252): the bit is scheduled first, and then the run, if it still goes on, is
cancelled. -/

namespace Sys2Proof.Machine

/-- R252(a): the `STEP` stands before the `CANCEL`. -/
theorem cycleOrder_cancel_sched (a : Operands) :
    cycleOrder [.cmd .can 0b0100 a, .sched] = [.sched, .cmd .can 0b0100 a] := rfl

/-! ### The elements a `CANCEL` leaves (R155) -/

@[simp] theorem cancelRun_failCnt (tx : TxState) : (cancelRun tx).failCnt = tx.failCnt := by
  unfold cancelRun
  split <;> rfl

section
variable {P : Params} {s u : State} {a : Operands} {ts : List Turn}

/-- A `CANCEL` turn with the Actuator open always completes. -/
theorem step_of_cancel_opened (hturns : s.env.turns = .cmd .can 0b0100 a :: ts) (hopen : s.tx.actState = .opened) :
    ∃ t, step s = .next t ∧ t.tx = cancelRun s.shutdownActuator.tx :=
  have hexec := exec_cancel_of_opened (s := s.withTurns ts) hopen
  ⟨_, (step_of_cmd hturns).trans ((commandTurn_of_ok rfl).trans hexec), rfl⟩

/-- A `STEP` leaves the Actuator open: it keeps the handle, and R52(c) holds before and after. -/
theorem schedulerTurn_opened (h : TxInv P s.tx) (hopen : s.tx.actState = .opened) (hturn : schedulerTurn s = .next u) :
    u.tx.actState = .opened := by
  have hinv : TxInv P u.tx := nextTransition_txInv (s := s.withTurns (.sched :: s.env.turns)) h hturn
  rw [hinv.open_iff, schedulerTurn_actHandle hturn]
  exact h.open_iff.mp hopen

/-- A `CANCEL` after a `STEP` finds the run ended `DONE` if the bit was the last, and else cancels it. -/
theorem OneBitScheduled.cancelRun_txStatus (h : OneBitScheduled s u) :
    (cancelRun u.shutdownActuator.tx).txStatus =
      if s.tx.bitIdx + 1 = s.tx.nbits then TxStatus.done else TxStatus.cancelled := by
  by_cases hlast : s.tx.bitIdx + 1 = s.tx.nbits
  · obtain ⟨hidle, hdone⟩ := endedComplete_iff.mp (h.ends hlast)
    rw [if_pos hlast, cancelRun_of_idle (tx := u.shutdownActuator.tx) hidle]
    exact hdone
  · rw [if_neg hlast, cancelRun_of_run (tx := u.shutdownActuator.tx) (h.runs hlast)]
    rfl

end

end Sys2Proof.Machine

namespace Sys2Proof.Proofs

open Sys2Proof.Machine

/-- Settles O32: the `STEP` schedules one bit and keeps the Actuator open, and the `CANCEL` shuts it down. -/
theorem stepBeforeCancelInOneCycle : Obligations.StepBeforeCancelInOneCycle := by
  unfold Obligations.StepBeforeCancelInOneCycle
  intro s a hinv hrun hturns
  rw [cycleOrder_cancel_sched] at hturns
  obtain ⟨-, hopen, -⟩ := hinv.run_ready hrun
  obtain ⟨u, hturn, hbit⟩ := schedulerTurn_oneBitScheduled (s := s.withTurns s.env.turns.tail) hinv hrun
  have hstep : step s = .next u := (step_of_nextIsSched (.inr ⟨_, hturns⟩)).trans hturn
  have hturns' : u.env.turns = [.cmd .can 0b0100 a] := by rw [step_turns hstep, hturns]; rfl
  have hopen' : u.tx.actState = .opened := schedulerTurn_opened (s := s.withTurns s.env.turns.tail) hinv hopen hturn
  obtain ⟨t, hcancel, htx⟩ := step_of_cancel_opened hturns' hopen'
  refine ⟨u, t, hstep, hcancel, ?_⟩
  rw [htx]
  exact ⟨cancelRun_txState _, cancelRun_actState _, cancelRun_actHandle _,
    (cancelRun_bitIdx _).trans hbit.upTo.bitIdx, cancelRun_failCnt _, hbit.cancelRun_txStatus⟩

end Sys2Proof.Proofs
